-- ==== Sys2Proof/Word.lean ====
section
/-! DEFINITION. The words of the PBStx communication core: bytes, times, identifiers and the fixed sizes
(spec/00_scope.md R9 to R11, spec/10_state.md R28, R35). -/

namespace Sys2Proof

/-- A byte (R11): unsigned, 8 bits. -/
abbrev Byte := BitVec 8

/-- A time of the clock collaborator in milliseconds, 64 bits (R35). -/
abbrev Time := BitVec 64

/-- A channel id, `0 .. N_CHAN-1` (R20). -/
abbrev ChanId := Nat

/-- A physical medium guarded by one lock (R39). -/
abbrev MediumId := Nat

/-- A slot index of the instance registry (R38). -/
abbrev SlotId := Nat

/-- The number of a running broadcast's context (R42). -/
abbrev BcastId := Nat

/-- `LEN_MAX` (R10): it follows from the one-byte length field and is not tunable. -/
abbrev lenMax : Nat := 255

/-- The capacity of `rx_buf` and of `tx_buf`: 255 bytes, indices 0 to 254 (R28, R30). -/
abbrev bufSize : Nat := 255

end Sys2Proof
end

