-- ==== Sys2Proof/Config.lean ====
section
/-! DEFINITION. The parameters of the block (spec/00_scope.md R9) as plain data, and the constants the spec leaves
open, as uninterpreted constants. A machine carries its parameters in its state, where no operation writes them, so
that a claim about every state is a claim about every value of the parameters (log entry 5). -/

namespace Sys2Proof

/-- The CRC step (R121, R122): a polynomial with its bit order, or the peer's own function, of which nothing is
known here. The order least-significant bit first is the family's reading of `CRC_MSB_FIRST = false`
(PRESUMED, log entry 15). -/
inductive CrcDef where
  | poly (polynomial : Byte) (msbFirst : Bool)
  | peer
  deriving DecidableEq, Repr

/-- `BODY_CODEC` (R181): open; `identity` is the codec the worked examples of spec/95_test_vectors.md use (log
entry 16). -/
inductive BodyCodec where
  | identity
  | peer
  deriving DecidableEq, Repr

/-- A typed body value: opaque to the block (R181), so it is held as the bytes that stand for it (log entry 16). -/
abbrev BodyVal := List Byte

/-- The constants of a machine, the table of R9. -/
structure Config where
  /-- `START` -/
  start          : Byte
  /-- `MAX_INSTANCES` -/
  maxInstances   : Nat
  /-- `crc8_update` (`CRC_POLY`, `CRC_MSB_FIRST`) -/
  crc            : CrcDef
  /-- `CRC_INIT` -/
  crcInit        : Byte
  /-- `CRC_XOROUT` -/
  crcXorout      : Byte
  /-- `IDLE_KEEPS_STATE` -/
  idleKeepsState : Bool
  /-- `MSGID_ENVELOPE` -/
  msgidEnvelope  : Byte
  /-- `TAG(v)`, in the source's listing order of the variants (R98) -/
  tags           : List Nat
  /-- `BODY_CODEC` -/
  codec          : BodyCodec
  /-- `BCAST_REFRAME` -/
  bcastReframe   : Bool
  /-- `N_CHAN` -/
  nChan          : Nat
  /-- how many physical media, and so locks, there are (R39) -/
  nMedia         : Nat
  /-- `medium(c)` at reset, for each channel; the environment may change it afterwards (R39, R77) -/
  medium         : List MediumId
  /-- `FINAL_DIAG(c)`: tag and body bytes, for each channel -/
  finalDiag      : List (Nat × List Byte)
  /-- `PAGE_SIZE`, used by the memory-dump handler only -/
  pageSize       : Nat
  /-- `ENGINE_ID_W`, in bits -/
  engineIdW      : Nat
  deriving DecidableEq, Repr

/-- The configuration registers (R36), read-only to every operation of the block, loaded at reset. `engine_id` has
`ENGINE_ID_W` bits (`CfgRegs.legal`). -/
structure CfgRegs where
  engineId     : Nat
  statusPeriod : BitVec 32
  dbgAdcRaw    : Bool
  dbgMemdump   : Bool
  tIdle        : BitVec 32
  tBulk        : BitVec 32
  tSend        : BitVec 32
  deriving DecidableEq, Repr

/-- The legal values of R36 at the parameter `ENGINE_ID_W`: an identity of that width, durations greater than 0; the
identity 0 is what `93_implementation_defined.md` U9 puts outside the spec. -/
def CfgRegs.legal (k : Config) (r : CfgRegs) : Bool :=
  r.engineId != 0 && decide (r.engineId < 2 ^ k.engineIdW) && r.statusPeriod != 0 && r.tIdle != 0 && r.tBulk != 0 && r.tSend != 0

/-- The peer's CRC step (R122, D2): open. -/
opaque Config.peerCrcStep : Byte → Byte → Byte

/-- `body_decode(v, B)` of the peer's codec, the variant given by its place in the listing (R181, D14): open.
`Machine.bodyDecode` takes a value of it only where `peerBodyOk` holds of that value. -/
opaque Config.peerBodyDecode : Nat → List Byte → Option BodyVal

/-- `body_encode(v, x)` of the peer's codec (R181, D14): open. -/
opaque Config.peerBodyEncode : Nat → BodyVal → List Byte

/-- Whether a body value is one of variant `v` of the peer's codec, the type `Body v` of R181: open. -/
opaque Config.peerBodyOk : Nat → BodyVal → Bool

/-- How many fields a variant of the peer's codec has (R181): open. -/
opaque Config.peerFieldCount : Nat → Nat

/-- The value of field `f` of a body of variant `v` of the peer's codec; none where it is an absent optional field
(R181): open. -/
opaque Config.peerField : Nat → Nat → BodyVal → Option (List Byte)

/-- The documented default of field `f` of variant `v` of the peer's codec (R181, R182): open. -/
opaque Config.peerFieldDefault : Nat → Nat → List Byte

/-- `FINAL_DIAG(c)` (R231, D21): open. -/
opaque Config.openFinalDiag : ChanId → Nat × List Byte

/-- `STATUS_PERIOD - 1` on the configuration inputs (D8): open; R36 wants the period greater than 0. -/
opaque Config.openStatusPeriod : Fin 4294967295

/-- `T_SEND - 1` on the configuration inputs (D8): open; R36 wants it greater than 0. -/
opaque Config.openTSend : Fin 4294967295

/-- `engine_id - 1` on the configuration inputs: open; U9 puts the identity 0 outside the spec. -/
opaque Config.openEngineId : Fin 4294967295

/-- `PAGE_SIZE` (D8): open. -/
opaque Config.openPageSize : Nat

/-- The parameters at the values of R9's table. `N_CHAN` is open (D1: any value at least `MAX_INSTANCES`): three
channels, each with a medium of its own, are a DESIGN CHOICE (log entry 4). -/
def Config.default : Config where
  start          := 0xA5
  maxInstances   := 2
  crc            := .poly 0x07 true
  crcInit        := 0x00
  crcXorout      := 0x00
  idleKeepsState := true
  msgidEnvelope  := 0x00
  tags           := [1, 2, 3, 4, 5, 6, 7, 8, 9, 10]
  codec          := .peer
  bcastReframe   := false
  nChan          := 3
  nMedia         := 3
  medium         := [0, 1, 2]
  finalDiag      := [Config.openFinalDiag 0, Config.openFinalDiag 1, Config.openFinalDiag 2]
  pageSize       := Config.openPageSize
  engineIdW      := 32

/-- The configuration inputs at the first reset (log entry 8): the open values are open constants, `T_IDLE` and
`T_BULK` are the source's 10 and 50, and both debug flags are off. -/
def CfgRegs.default : CfgRegs where
  engineId     := Config.openEngineId.val + 1
  statusPeriod := BitVec.ofNat 32 (Config.openStatusPeriod.val + 1)
  dbgAdcRaw    := false
  dbgMemdump   := false
  tIdle        := 10
  tBulk        := 50
  tSend        := BitVec.ofNat 32 (Config.openTSend.val + 1)

/-- A legal instance of the block: ten tags, each one's key fitting a varint, no two equal, none 0 (R97, R98, R101), at
least one channel and no fewer than registry slots (R9, D1), and a medium with a lock for each channel (R39). A legal
instance that has the laws of R122 and R181 too is `Machine.lawful`, which no Boolean can say. -/
def Config.legal (k : Config) : Bool :=
  k.tags.length == 10 && k.tags.all (fun t => t != 0 && t < 2 ^ 61) && decide k.tags.Nodup && k.nChan != 0 &&
  decide (k.maxInstances ≤ k.nChan) && k.medium.length == k.nChan && k.medium.all fun m => decide (m < k.nMedia)

end Sys2Proof
end

