-- ==== Sys2Proof/Syntax.lean ====
section
/-! DEFINITION. The operations of the block as syntax: one constructor of `Instr` per row of
spec/opcode_table.json (spec/30_encoding.md R110), with the names its operands are made of. -/

namespace Sys2Proof

/-- The closed set of submessage variants, in the source's listing order (R98, R175). -/
inductive Variant where
  | status | statusText | timeReference | command | paramRequest
  | paramSet | paramValue | logRequest | memoryDumpRequest | memoryDumpPage
  deriving DecidableEq, Repr

/-- The place of a variant in the source's list, from 0. -/
def Variant.index : Variant → Nat
  | .status => 0
  | .statusText => 1
  | .timeReference => 2
  | .command => 3
  | .paramRequest => 4
  | .paramSet => 5
  | .paramValue => 6
  | .logRequest => 7
  | .memoryDumpRequest => 8
  | .memoryDumpPage => 9

/-- All variants in listing order. -/
def Variant.all : List Variant :=
  [.status, .statusText, .timeReference, .command, .paramRequest,
   .paramSet, .paramValue, .logRequest, .memoryDumpRequest, .memoryDumpPage]

/-- The phase register of the receiver, `c.rx_state` (R22): the field the next byte is taken as. -/
inductive RxState where
  | waitStart | seq | msgid | len | payload | crc
  deriving DecidableEq, Repr

/-- The binary code of `rx_state` (R22, D26). -/
def RxState.code : RxState → Nat
  | .waitStart => 0
  | .seq => 1
  | .msgid => 2
  | .len => 3
  | .payload => 4
  | .crc => 5

/-- What can reach a pending read (R104, R142). -/
inductive RxEvent where
  | byte (b : Byte)
  | timeout
  | chReset
  deriving DecidableEq, Repr

/-- The agents that issue commands and hold locks (R17, R39): the worker of a channel and a running broadcast. The driver
is the model's name for a caller outside the block, to whom the results of the CRC operations go, whose rules name no
caller; a step runs no operation of an agent of the block for it (R286, log entry 13), and the listings of the two decode
passes alone name it too. -/
inductive Agent where
  | driver
  | worker (c : ChanId)
  | bcast (k : BcastId)
  deriving DecidableEq, Repr

/-- The callers of `BCAST.SEND` (R203): the handler running on behalf of a channel, and the stopping worker of a channel.
The driver is a caller outside the block, whose call no step takes (R286, log entry 13). -/
inductive BcastCaller where
  | driver
  | handler (c : ChanId)
  | stop (c : ChanId)
  deriving DecidableEq, Repr

/-- The steps of `TX.SEND` (R161, R162, R164): the call, and what can reach its pending write. -/
inductive SendInput where
  | call (a : Agent) (msgid : Byte)
  | ready
  | timeout
  | chReset
  deriving DecidableEq, Repr

/-- The steps of `TX.RAW` (R164, R166). -/
inductive RawInput where
  | call (a : Agent) (frame : List Byte)
  | ready
  | timeout
  | chReset
  deriving DecidableEq, Repr

/-- The steps of `BCAST.SEND` that are its own (R203 to R209): the call; the visit of slot `i` by context `k`; with
`BCAST_REFRAME`, the copy of the payload into the next session's buffer; the return. -/
inductive BcastInput where
  | call (caller : BcastCaller) (t : Nat) (body : List Byte)
  | visit (k : BcastId) (i : SlotId)
  | copy (k : BcastId)
  | finish (k : BcastId)
  deriving DecidableEq, Repr

/-- The steps of `SES.START` that are its own (R221): the event `Start(c)`; the transport writes under the lock; the
clearing of the termination flag; the entry into the loop. -/
inductive StartInput where
  | event
  | init
  | arm
  | enter
  deriving DecidableEq, Repr

/-- The forms of `SES.STATUS` (R223): the time comparison, the event `StatusDue(c)`, and the return of the handler. -/
inductive StatusInput where
  | compare
  | due
  | handlerDone
  deriving DecidableEq, Repr

/-- The forms of `SES.DISPATCH` (R226): pass 1, and the return of the handler. -/
inductive DispatchInput where
  | pass1
  | handlerDone
  deriving DecidableEq, Repr

/-- The operations: one constructor per row of spec/opcode_table.json. -/
inductive Instr where
  -- CALL
  | crc8Update (running byte : Byte)
  | crc8Block (running : Byte) (buf : List Byte)
  -- EV, receiver
  | rxStart (c : ChanId)
  | rxDiscard (c : ChanId) (b : Byte)
  | rxSeq (c : ChanId) (b : Byte)
  | rxMsgid (c : ChanId) (b : Byte)
  | rxLen (c : ChanId) (b : Byte)
  | rxPayload (c : ChanId) (b : Byte)
  | rxCrc (c : ChanId) (b : Byte)
  | rxIdleTmo (c : ChanId)
  | rxBulkTmo (c : ChanId)
  | rxIdleRst (c : ChanId)
  | rxBulkRst (c : ChanId)
  -- CMD
  | rxReceive (c : ChanId)
  | txSend (c : ChanId) (x : SendInput)
  | txRaw (c : ChanId) (x : RawInput)
  | lockAcq (a : Agent) (m : MediumId)
  | lockRel (a : Agent) (m : MediumId)
  | envEncode (a : Agent) (c : ChanId) (t : Nat) (body : List Byte)
  | envDiscriminate (payload : List Byte)
  | envBody (v : Variant) (payload : List Byte)
  | regClaim (c : ChanId) (i : SlotId)
  | regClear (c : ChanId)
  | bcastSend (x : BcastInput)
  -- EV and PHASE, worker
  | sesStart (c : ChanId) (x : StartInput)
  | sesCheckTerm (c : ChanId)
  | sesStatus (c : ChanId) (x : StatusInput)
  | sesReceive (c : ChanId)
  | sesDispatch (c : ChanId) (x : DispatchInput)
  | sesSend (c : ChanId) (t : Nat) (body : List Byte)
  | sesStop (c : ChanId)
  -- FRAME: a wire frame presented on channel `c`
  | frame (c : ChanId) (seq msgid : Byte) (payload : List Byte) (crc : Byte)
  -- ENV: the key of a variant with its wire type, matched at the worker of channel `c`
  | envStatus (c : ChanId) (w : BitVec 3)
  | envStatusText (c : ChanId) (w : BitVec 3)
  | envTimeReference (c : ChanId) (w : BitVec 3)
  | envCommand (c : ChanId) (w : BitVec 3)
  | envParamRequest (c : ChanId) (w : BitVec 3)
  | envParamSet (c : ChanId) (w : BitVec 3)
  | envParamValue (c : ChanId) (w : BitVec 3)
  | envLogRequest (c : ChanId) (w : BitVec 3)
  | envMemoryDumpRequest (c : ChanId) (w : BitVec 3)
  | envMemoryDumpPage (c : ChanId) (w : BitVec 3)
  deriving DecidableEq, Repr

end Sys2Proof
end

