-- ==== Sys2Proof/WellFormed.lean ====
section
/-! DEFINITION. Which operation terms are well formed: the operand ranges the opcode table and the rules give, and the
range a coded operand can hold (a natural number is coded as a varint, spec/30_encoding.md R97: below 2^64). -/

namespace Sys2Proof

/-- A natural-number operand fits a varint (R97). -/
def natOk (n : Nat) : Bool := n < 2 ^ 64

/-- A byte-string operand whose length fits a varint (R97). -/
def bytesOk (bs : List Byte) : Bool := natOk bs.length

/-- A payload of a frame is 0 to 255 bytes (R10, R92, R178). -/
def payloadOk (bs : List Byte) : Bool := bs.length ≤ lenMax

/-- A complete frame is 5 to 260 bytes (R61, R166). -/
def frameOk (bs : List Byte) : Bool := 5 ≤ bs.length && bs.length ≤ 260

/-- The agent's number fits a varint. -/
def Agent.ok : Agent → Bool
  | .driver => true
  | .worker c => natOk c
  | .bcast k => natOk k

/-- The caller's number fits a varint. -/
def BcastCaller.ok : BcastCaller → Bool
  | .driver => true
  | .handler c => natOk c
  | .stop c => natOk c

/-- The operands of the steps of `TX.SEND`. -/
def SendInput.ok : SendInput → Bool
  | .call a _ => a.ok
  | .ready => true
  | .timeout => true
  | .chReset => true

/-- The operands of the steps of `TX.RAW`: the frame is complete (R166). -/
def RawInput.ok : RawInput → Bool
  | .call a f => a.ok && frameOk f
  | .ready => true
  | .timeout => true
  | .chReset => true

/-- The operands of the steps of `BCAST.SEND`. -/
def BcastInput.ok : BcastInput → Bool
  | .call caller t body => caller.ok && natOk t && bytesOk body
  | .visit k i => natOk k && natOk i
  | .copy k => natOk k
  | .finish k => natOk k

/-- Well-formed operations at the parameter `START`: a byte `RX.DISCARD` takes is not the start marker (R110, R141). -/
def Instr.wellFormed (start : Byte) : Instr → Bool
  | .crc8Update _ _ => true
  | .crc8Block _ buf => bytesOk buf
  | .rxStart c => natOk c
  | .rxDiscard c b => natOk c && b != start
  | .rxSeq c _ => natOk c
  | .rxMsgid c _ => natOk c
  | .rxLen c _ => natOk c
  | .rxPayload c _ => natOk c
  | .rxCrc c _ => natOk c
  | .rxIdleTmo c => natOk c
  | .rxBulkTmo c => natOk c
  | .rxIdleRst c => natOk c
  | .rxBulkRst c => natOk c
  | .rxReceive c => natOk c
  | .txSend c x => natOk c && x.ok
  | .txRaw c x => natOk c && x.ok
  | .lockAcq a m => a.ok && natOk m
  | .lockRel a m => a.ok && natOk m
  | .envEncode a c t body => a.ok && natOk c && natOk t && bytesOk body
  | .envDiscriminate p => payloadOk p
  | .envBody _ p => payloadOk p
  | .regClaim c i => natOk c && natOk i
  | .regClear c => natOk c
  | .bcastSend x => x.ok
  | .sesStart c _ => natOk c
  | .sesCheckTerm c => natOk c
  | .sesStatus c _ => natOk c
  | .sesReceive c => natOk c
  | .sesDispatch c _ => natOk c
  | .sesSend c t body => natOk c && natOk t && bytesOk body
  | .sesStop c => natOk c
  | .frame c _ _ p _ => natOk c && payloadOk p
  | .envStatus c _ => natOk c
  | .envStatusText c _ => natOk c
  | .envTimeReference c _ => natOk c
  | .envCommand c _ => natOk c
  | .envParamRequest c _ => natOk c
  | .envParamSet c _ => natOk c
  | .envParamValue c _ => natOk c
  | .envLogRequest c _ => natOk c
  | .envMemoryDumpRequest c _ => natOk c
  | .envMemoryDumpPage c _ => natOk c

end Sys2Proof
end

