-- ==== Sys2Proof/Decode.lean ====
section
/-! DEFINITION. Decoding and encoding: the varint and the key of the envelope's field stream (spec/30_encoding.md R95
to R98), the selection of the receiver's operation by state, event and byte (R111), the wire frame (R90), and the
operation words by which a command is handed to the block. The table gives first bytes only to RX.START, FRAME and the
ten ENV rows; every other first byte and the operand bytes of an operation word are the model's own (DESIGN CHOICE, log
entry 2). -/

namespace Sys2Proof

/-- Why a word is no operation. -/
inductive DecodeError where
  /-- no byte at all -/
  | emptyWord
  /-- the first byte is no operation's -/
  | unknownOpcode (b : Byte)
  /-- an operand runs past the end of the word -/
  | truncated
  /-- a number is no varint: past the end, or an eleventh byte (R97) -/
  | badVarint
  /-- an operand's selector byte has no meaning -/
  | badForm (b : Byte)
  /-- a frame does not begin with the start marker (R90) -/
  | noStartMarker (b : Byte)
  /-- the operands are out of the range the rules give -/
  | illFormed
  /-- bytes are left over after the operation -/
  | trailingBytes
  deriving DecidableEq, Repr

/-! ## Varints and keys -/

/-- The bytes of a varint, `fuel` of them at most, least-significant 7-bit group first, bit 7 set on every byte but
the last (R97). -/
def varintBytes : Nat → Nat → List Byte
  | 0, _ => []
  | fuel + 1, v =>
    if v < 128 then [BitVec.ofNat 8 v]
    else BitVec.ofNat 8 (v % 128 + 128) :: varintBytes fuel (v / 128)

/-- `varint(v)` (R97): 1 to 10 bytes, the fewest that hold `v`. -/
def varint (v : Nat) : List Byte := varintBytes 10 v

/-- Reads the groups of a varint: the value before the cut to 64 bits, and how many bytes it took. -/
def readGroups : Nat → List Byte → Option (Nat × Nat)
  | 0, _ => none
  | _ + 1, [] => none
  | fuel + 1, b :: bs =>
    if b.toNat < 128 then some (b.toNat, 1)
    else (readGroups fuel bs).map fun (v, n) => (b.toNat % 128 + 128 * v, n + 1)

/-- `read_varint` at the front of `bs` (R97, R179): the value, bits above bit 63 discarded, and how many bytes it took;
`none` if it runs past the end or needs an eleventh byte. -/
def readVarint (bs : List Byte) : Option (Nat × Nat) :=
  (readGroups 10 bs).map fun (v, n) => (v % 2 ^ 64, n)

/-- The key of field number `n` with wire type `w` (R95). -/
def keyOf (n : Nat) (w : BitVec 3) : Nat := n * 8 + w.toNat

/-- `field_number = k >> 3` (R95). -/
def keyField (k : Nat) : Nat := k / 8

/-- `wire_type = k[2:0]` (R95). -/
def keyWire (k : Nat) : BitVec 3 := BitVec.ofNat 3 k

/-! ## The receiver's operation -/

/-- The receiver's operation as a function of the state, the event and the byte alone (R111), total. `start` is the
parameter `START`. -/
def decodeRx (start : Byte) (st : RxState) (c : ChanId) (e : RxEvent) : Instr :=
  match e with
  | .byte b =>
    match st with
    | .waitStart => if b = start then .rxStart c else .rxDiscard c b
    | .seq => .rxSeq c b
    | .msgid => .rxMsgid c b
    | .len => .rxLen c b
    | .payload => .rxPayload c b
    | .crc => .rxCrc c b
  | .timeout => if st = .payload then .rxBulkTmo c else .rxIdleTmo c
  | .chReset => if st = .payload then .rxBulkRst c else .rxIdleRst c

/-! ## The wire frame -/

/-- The bytes of a frame in wire order (R61, R90): start marker, sequence, message-id, length, payload, CRC. -/
def wireFrame (start seq msgid : Byte) (payload : List Byte) (crc : Byte) : List Byte :=
  start :: seq :: msgid :: BitVec.ofNat 8 payload.length :: (payload ++ [crc])

/-- Reads one byte of a word. -/
def rdByte : List Byte → Except DecodeError (Byte × List Byte)
  | [] => .error .truncated
  | b :: bs => .ok (b, bs)

/-- Reads `n` bytes of a word. -/
def rdTake (n : Nat) (bs : List Byte) : Except DecodeError (List Byte × List Byte) :=
  if n ≤ bs.length then .ok (bs.take n, bs.drop n) else .error .truncated

/-- Reads a number (a varint) of a word. -/
def rdNat (bs : List Byte) : Except DecodeError (Nat × List Byte) :=
  match readVarint bs with
  | some (v, n) => .ok (v, bs.drop n)
  | none => .error .badVarint

/-- Reads a byte string of a word: its length as a varint, then the bytes (R96, wire type 2). -/
def rdBytes (bs : List Byte) : Except DecodeError (List Byte × List Byte) := do
  let (n, bs) ← rdNat bs
  rdTake n bs

/-- Reads a wire frame that begins with the parameter `START` (R90, R92): the length comes from the fourth byte. -/
def rdFrame (marker : Byte) (bs : List Byte) : Except DecodeError ((Byte × Byte × List Byte × Byte) × List Byte) := do
  let (start, bs) ← rdByte bs
  if start ≠ marker then .error (.noStartMarker start) else
  let (seq, bs) ← rdByte bs
  let (msgid, bs) ← rdByte bs
  let (len, bs) ← rdByte bs
  let (payload, bs) ← rdTake len.toNat bs
  let (crc, bs) ← rdByte bs
  .ok ((seq, msgid, payload, crc), bs)

/-! ## Operation words: first bytes -/

/-- What the first byte of an operation word names. -/
inductive Opcode where
  | crc8Update | crc8Block
  | rxStart | rxDiscard | rxSeq | rxMsgid | rxLen | rxPayload | rxCrc
  | rxIdleTmo | rxBulkTmo | rxIdleRst | rxBulkRst | rxReceive
  | txSend | txRaw | lockAcq | lockRel
  | envEncode | envDiscriminate | envBody
  | regClaim | regClear | bcastSend
  | sesStart | sesCheckTerm | sesStatus | sesReceive | sesDispatch | sesSend | sesStop
  | frame
  deriving DecidableEq, Repr

/-- The first bytes of the rows other than ENV. `0xA5` is the table's match of RX.START; the others are the model's own
(log entry 2). -/
def opcodeTable : List (Byte × Opcode) :=
  [(0xA5, .rxStart), (0x80, .crc8Update), (0x81, .crc8Block), (0x82, .rxDiscard), (0x83, .rxSeq), (0x84, .rxMsgid),
   (0x85, .rxLen), (0x86, .rxPayload), (0x87, .rxCrc), (0x88, .rxIdleTmo), (0x89, .rxBulkTmo)] ++
  [(0x8A, .rxIdleRst), (0x8B, .rxBulkRst), (0x8C, .rxReceive), (0x8D, .txSend), (0x8E, .txRaw), (0x8F, .lockAcq),
   (0x90, .lockRel), (0x91, .envEncode), (0x92, .envDiscriminate), (0x93, .envBody), (0x94, .regClaim)] ++
  [(0x95, .regClear), (0x96, .bcastSend), (0x97, .sesStart), (0x98, .sesCheckTerm), (0x99, .sesStatus),
   (0x9A, .sesReceive), (0x9B, .sesDispatch), (0x9C, .sesSend), (0x9D, .sesStop), (0x9F, .frame)]

/-- The operation a first byte names, if any. -/
def opcodeOf (b : Byte) : Option Opcode :=
  (opcodeTable.find? fun row => row.1 == b).map (·.2)

/-- The first byte of an operation. -/
def opcodeByte : Opcode → Byte
  | .rxStart => 0xA5
  | .crc8Update => 0x80
  | .crc8Block => 0x81
  | .rxDiscard => 0x82
  | .rxSeq => 0x83
  | .rxMsgid => 0x84
  | .rxLen => 0x85
  | .rxPayload => 0x86
  | .rxCrc => 0x87
  | .rxIdleTmo => 0x88
  | .rxBulkTmo => 0x89
  | .rxIdleRst => 0x8A
  | .rxBulkRst => 0x8B
  | .rxReceive => 0x8C
  | .txSend => 0x8D
  | .txRaw => 0x8E
  | .lockAcq => 0x8F
  | .lockRel => 0x90
  | .envEncode => 0x91
  | .envDiscriminate => 0x92
  | .envBody => 0x93
  | .regClaim => 0x94
  | .regClear => 0x95
  | .bcastSend => 0x96
  | .sesStart => 0x97
  | .sesCheckTerm => 0x98
  | .sesStatus => 0x99
  | .sesReceive => 0x9A
  | .sesDispatch => 0x9B
  | .sesSend => 0x9C
  | .sesStop => 0x9D
  | .frame => 0x9F

/-- The table's key rows (R98): match `TAG << 3`, mask `0xF8`, at the default `TAG`. -/
def keyVariant (b : Byte) : Option Variant :=
  match b.toNat / 8 with
  | 0 => none
  | n + 1 => Variant.all[n]?

/-- The key byte of a variant with a wire type (R98). -/
def keyByte (v : Variant) (w : BitVec 3) : Byte := BitVec.ofNat 8 (keyOf (v.index + 1) w)

/-- The ENV row of a variant (R98, R227). -/
def Instr.ofVariant (v : Variant) (c : ChanId) (w : BitVec 3) : Instr :=
  match v with
  | .status => .envStatus c w
  | .statusText => .envStatusText c w
  | .timeReference => .envTimeReference c w
  | .command => .envCommand c w
  | .paramRequest => .envParamRequest c w
  | .paramSet => .envParamSet c w
  | .paramValue => .envParamValue c w
  | .logRequest => .envLogRequest c w
  | .memoryDumpRequest => .envMemoryDumpRequest c w
  | .memoryDumpPage => .envMemoryDumpPage c w

/-! ## Operation words: operands -/

/-- Reads an agent. -/
def rdAgent (bs : List Byte) : Except DecodeError (Agent × List Byte) := do
  let (k, bs) ← rdByte bs
  if k = 0 then .ok (.driver, bs)
  else if k = 1 then do
    let (c, bs) ← rdNat bs
    .ok (.worker c, bs)
  else if k = 2 then do
    let (n, bs) ← rdNat bs
    .ok (.bcast n, bs)
  else .error (.badForm k)

/-- Reads the caller of a broadcast. -/
def rdCaller (bs : List Byte) : Except DecodeError (BcastCaller × List Byte) := do
  let (k, bs) ← rdByte bs
  if k = 0 then .ok (.driver, bs)
  else if k = 1 then do
    let (c, bs) ← rdNat bs
    .ok (.handler c, bs)
  else if k = 2 then do
    let (c, bs) ← rdNat bs
    .ok (.stop c, bs)
  else .error (.badForm k)

/-- Reads a step of `TX.SEND`. -/
def rdSend (bs : List Byte) : Except DecodeError (SendInput × List Byte) := do
  let (k, bs) ← rdByte bs
  if k = 0 then do
    let (a, bs) ← rdAgent bs
    let (m, bs) ← rdByte bs
    .ok (.call a m, bs)
  else if k = 1 then .ok (.ready, bs)
  else if k = 2 then .ok (.timeout, bs)
  else if k = 3 then .ok (.chReset, bs)
  else .error (.badForm k)

/-- Reads a step of `TX.RAW`. -/
def rdRaw (bs : List Byte) : Except DecodeError (RawInput × List Byte) := do
  let (k, bs) ← rdByte bs
  if k = 0 then do
    let (a, bs) ← rdAgent bs
    let (f, bs) ← rdBytes bs
    .ok (.call a f, bs)
  else if k = 1 then .ok (.ready, bs)
  else if k = 2 then .ok (.timeout, bs)
  else if k = 3 then .ok (.chReset, bs)
  else .error (.badForm k)

/-- Reads a step of `BCAST.SEND`. -/
def rdBcast (bs : List Byte) : Except DecodeError (BcastInput × List Byte) := do
  let (k, bs) ← rdByte bs
  if k = 0 then do
    let (caller, bs) ← rdCaller bs
    let (t, bs) ← rdNat bs
    let (body, bs) ← rdBytes bs
    .ok (.call caller t body, bs)
  else if k = 1 then do
    let (n, bs) ← rdNat bs
    let (i, bs) ← rdNat bs
    .ok (.visit n i, bs)
  else if k = 2 then do
    let (n, bs) ← rdNat bs
    .ok (.copy n, bs)
  else if k = 3 then do
    let (n, bs) ← rdNat bs
    .ok (.finish n, bs)
  else .error (.badForm k)

/-- Reads a step of `SES.START`. -/
def rdStart (bs : List Byte) : Except DecodeError (StartInput × List Byte) := do
  let (k, bs) ← rdByte bs
  if k = 0 then .ok (.event, bs)
  else if k = 1 then .ok (.init, bs)
  else if k = 2 then .ok (.arm, bs)
  else if k = 3 then .ok (.enter, bs)
  else .error (.badForm k)

/-- Reads a form of `SES.STATUS`. -/
def rdStatus (bs : List Byte) : Except DecodeError (StatusInput × List Byte) := do
  let (k, bs) ← rdByte bs
  if k = 0 then .ok (.compare, bs)
  else if k = 1 then .ok (.due, bs)
  else if k = 2 then .ok (.handlerDone, bs)
  else .error (.badForm k)

/-- Reads a form of `SES.DISPATCH`. -/
def rdDispatch (bs : List Byte) : Except DecodeError (DispatchInput × List Byte) := do
  let (k, bs) ← rdByte bs
  if k = 0 then .ok (.pass1, bs)
  else if k = 1 then .ok (.handlerDone, bs)
  else .error (.badForm k)

/-- Reads a variant, by its place in the listing. -/
def rdVariant (bs : List Byte) : Except DecodeError (Variant × List Byte) := do
  let (k, bs) ← rdByte bs
  match Variant.all[k.toNat]? with
  | some v => .ok (v, bs)
  | none => .error (.badForm k)

/-- Reads the operands of an operation. -/
def rdOperands (start : Byte) (o : Opcode) (bs : List Byte) : Except DecodeError (Instr × List Byte) :=
  match o with
  | .crc8Update => do
    let (r, bs) ← rdByte bs
    let (b, bs) ← rdByte bs
    .ok (.crc8Update r b, bs)
  | .crc8Block => do
    let (r, bs) ← rdByte bs
    let (buf, bs) ← rdBytes bs
    .ok (.crc8Block r buf, bs)
  | .rxStart => do
    let (c, bs) ← rdNat bs
    .ok (.rxStart c, bs)
  | .rxDiscard => do
    let (c, bs) ← rdNat bs
    let (b, bs) ← rdByte bs
    .ok (.rxDiscard c b, bs)
  | .rxSeq => do
    let (c, bs) ← rdNat bs
    let (b, bs) ← rdByte bs
    .ok (.rxSeq c b, bs)
  | .rxMsgid => do
    let (c, bs) ← rdNat bs
    let (b, bs) ← rdByte bs
    .ok (.rxMsgid c b, bs)
  | .rxLen => do
    let (c, bs) ← rdNat bs
    let (b, bs) ← rdByte bs
    .ok (.rxLen c b, bs)
  | .rxPayload => do
    let (c, bs) ← rdNat bs
    let (b, bs) ← rdByte bs
    .ok (.rxPayload c b, bs)
  | .rxCrc => do
    let (c, bs) ← rdNat bs
    let (b, bs) ← rdByte bs
    .ok (.rxCrc c b, bs)
  | .rxIdleTmo => do
    let (c, bs) ← rdNat bs
    .ok (.rxIdleTmo c, bs)
  | .rxBulkTmo => do
    let (c, bs) ← rdNat bs
    .ok (.rxBulkTmo c, bs)
  | .rxIdleRst => do
    let (c, bs) ← rdNat bs
    .ok (.rxIdleRst c, bs)
  | .rxBulkRst => do
    let (c, bs) ← rdNat bs
    .ok (.rxBulkRst c, bs)
  | .rxReceive => do
    let (c, bs) ← rdNat bs
    .ok (.rxReceive c, bs)
  | .txSend => do
    let (c, bs) ← rdNat bs
    let (x, bs) ← rdSend bs
    .ok (.txSend c x, bs)
  | .txRaw => do
    let (c, bs) ← rdNat bs
    let (x, bs) ← rdRaw bs
    .ok (.txRaw c x, bs)
  | .lockAcq => do
    let (a, bs) ← rdAgent bs
    let (m, bs) ← rdNat bs
    .ok (.lockAcq a m, bs)
  | .lockRel => do
    let (a, bs) ← rdAgent bs
    let (m, bs) ← rdNat bs
    .ok (.lockRel a m, bs)
  | .envEncode => do
    let (a, bs) ← rdAgent bs
    let (c, bs) ← rdNat bs
    let (t, bs) ← rdNat bs
    let (body, bs) ← rdBytes bs
    .ok (.envEncode a c t body, bs)
  | .envDiscriminate => do
    let (p, bs) ← rdBytes bs
    .ok (.envDiscriminate p, bs)
  | .envBody => do
    let (v, bs) ← rdVariant bs
    let (p, bs) ← rdBytes bs
    .ok (.envBody v p, bs)
  | .regClaim => do
    let (c, bs) ← rdNat bs
    let (i, bs) ← rdNat bs
    .ok (.regClaim c i, bs)
  | .regClear => do
    let (c, bs) ← rdNat bs
    .ok (.regClear c, bs)
  | .bcastSend => do
    let (x, bs) ← rdBcast bs
    .ok (.bcastSend x, bs)
  | .sesStart => do
    let (c, bs) ← rdNat bs
    let (x, bs) ← rdStart bs
    .ok (.sesStart c x, bs)
  | .sesCheckTerm => do
    let (c, bs) ← rdNat bs
    .ok (.sesCheckTerm c, bs)
  | .sesStatus => do
    let (c, bs) ← rdNat bs
    let (x, bs) ← rdStatus bs
    .ok (.sesStatus c x, bs)
  | .sesReceive => do
    let (c, bs) ← rdNat bs
    .ok (.sesReceive c, bs)
  | .sesDispatch => do
    let (c, bs) ← rdNat bs
    let (x, bs) ← rdDispatch bs
    .ok (.sesDispatch c x, bs)
  | .sesSend => do
    let (c, bs) ← rdNat bs
    let (t, bs) ← rdNat bs
    let (body, bs) ← rdBytes bs
    .ok (.sesSend c t body, bs)
  | .sesStop => do
    let (c, bs) ← rdNat bs
    .ok (.sesStop c, bs)
  | .frame => do
    let (c, bs) ← rdNat bs
    let ((seq, msgid, payload, crc), bs) ← rdFrame start bs
    .ok (.frame c seq msgid payload crc, bs)

/-- Reads an operation before its operands' ranges are checked. -/
def decodeRaw (start : Byte) (bs : List Byte) : Except DecodeError (Instr × List Byte) :=
  match bs with
  | [] => .error .emptyWord
  | b :: bs =>
    match keyVariant b with
    | some v => do
      let (c, bs) ← rdNat bs
      .ok (Instr.ofVariant v c (keyWire b.toNat), bs)
    | none =>
      match opcodeOf b with
      | some o => rdOperands start o bs
      | none => .error (.unknownOpcode b)

/-- The decoder of operation words at the parameter `START`: total on any bytes; the operation and the bytes after it, or
why there is none. -/
def decode (start : Byte) (bs : List Byte) : Except DecodeError (Instr × List Byte) :=
  match decodeRaw start bs with
  | .ok (i, rest) => if i.wellFormed start then .ok (i, rest) else .error .illFormed
  | .error e => .error e

/-- The operation of a word that holds nothing else. -/
def decodeWord (start : Byte) (bs : List Byte) : Except DecodeError Instr :=
  match decode start bs with
  | .ok (i, []) => .ok i
  | .ok (_, _ :: _) => .error .trailingBytes
  | .error e => .error e

/-! ## The encoder -/

/-- A byte string with its length in front. -/
def wrBytes (bs : List Byte) : List Byte := varint bs.length ++ bs

/-- Writes an agent. -/
def wrAgent : Agent → List Byte
  | .driver => [0]
  | .worker c => 1 :: varint c
  | .bcast k => 2 :: varint k

/-- Writes the caller of a broadcast. -/
def wrCaller : BcastCaller → List Byte
  | .driver => [0]
  | .handler c => 1 :: varint c
  | .stop c => 2 :: varint c

/-- Writes a step of `TX.SEND`. -/
def wrSend : SendInput → List Byte
  | .call a m => 0 :: (wrAgent a ++ [m])
  | .ready => [1]
  | .timeout => [2]
  | .chReset => [3]

/-- Writes a step of `TX.RAW`. -/
def wrRaw : RawInput → List Byte
  | .call a f => 0 :: (wrAgent a ++ wrBytes f)
  | .ready => [1]
  | .timeout => [2]
  | .chReset => [3]

/-- Writes a step of `BCAST.SEND`. -/
def wrBcast : BcastInput → List Byte
  | .call caller t body => 0 :: (wrCaller caller ++ (varint t ++ wrBytes body))
  | .visit k i => 1 :: (varint k ++ varint i)
  | .copy k => 2 :: varint k
  | .finish k => 3 :: varint k

/-- Writes a step of `SES.START`. -/
def wrStart : StartInput → List Byte
  | .event => [0]
  | .init => [1]
  | .arm => [2]
  | .enter => [3]

/-- Writes a form of `SES.STATUS`. -/
def wrStatus : StatusInput → List Byte
  | .compare => [0]
  | .due => [1]
  | .handlerDone => [2]

/-- Writes a form of `SES.DISPATCH`. -/
def wrDispatch : DispatchInput → List Byte
  | .pass1 => [0]
  | .handlerDone => [1]

/-- The operation word of an operation at the parameter `START`, the inverse of `decode` on well-formed operations. -/
def encode (start : Byte) : Instr → List Byte
  | .crc8Update r b => [opcodeByte .crc8Update, r, b]
  | .crc8Block r buf => opcodeByte .crc8Block :: r :: wrBytes buf
  | .rxStart c => opcodeByte .rxStart :: varint c
  | .rxDiscard c b => opcodeByte .rxDiscard :: (varint c ++ [b])
  | .rxSeq c b => opcodeByte .rxSeq :: (varint c ++ [b])
  | .rxMsgid c b => opcodeByte .rxMsgid :: (varint c ++ [b])
  | .rxLen c b => opcodeByte .rxLen :: (varint c ++ [b])
  | .rxPayload c b => opcodeByte .rxPayload :: (varint c ++ [b])
  | .rxCrc c b => opcodeByte .rxCrc :: (varint c ++ [b])
  | .rxIdleTmo c => opcodeByte .rxIdleTmo :: varint c
  | .rxBulkTmo c => opcodeByte .rxBulkTmo :: varint c
  | .rxIdleRst c => opcodeByte .rxIdleRst :: varint c
  | .rxBulkRst c => opcodeByte .rxBulkRst :: varint c
  | .rxReceive c => opcodeByte .rxReceive :: varint c
  | .txSend c x => opcodeByte .txSend :: (varint c ++ wrSend x)
  | .txRaw c x => opcodeByte .txRaw :: (varint c ++ wrRaw x)
  | .lockAcq a m => opcodeByte .lockAcq :: (wrAgent a ++ varint m)
  | .lockRel a m => opcodeByte .lockRel :: (wrAgent a ++ varint m)
  | .envEncode a c t body => opcodeByte .envEncode :: (wrAgent a ++ (varint c ++ (varint t ++ wrBytes body)))
  | .envDiscriminate p => opcodeByte .envDiscriminate :: wrBytes p
  | .envBody v p => opcodeByte .envBody :: BitVec.ofNat 8 v.index :: wrBytes p
  | .regClaim c i => opcodeByte .regClaim :: (varint c ++ varint i)
  | .regClear c => opcodeByte .regClear :: varint c
  | .bcastSend x => opcodeByte .bcastSend :: wrBcast x
  | .sesStart c x => opcodeByte .sesStart :: (varint c ++ wrStart x)
  | .sesCheckTerm c => opcodeByte .sesCheckTerm :: varint c
  | .sesStatus c x => opcodeByte .sesStatus :: (varint c ++ wrStatus x)
  | .sesReceive c => opcodeByte .sesReceive :: varint c
  | .sesDispatch c x => opcodeByte .sesDispatch :: (varint c ++ wrDispatch x)
  | .sesSend c t body => opcodeByte .sesSend :: (varint c ++ (varint t ++ wrBytes body))
  | .sesStop c => opcodeByte .sesStop :: varint c
  | .frame c seq msgid payload crc => opcodeByte .frame :: (varint c ++ wireFrame start seq msgid payload crc)
  | .envStatus c w => keyByte .status w :: varint c
  | .envStatusText c w => keyByte .statusText w :: varint c
  | .envTimeReference c w => keyByte .timeReference w :: varint c
  | .envCommand c w => keyByte .command w :: varint c
  | .envParamRequest c w => keyByte .paramRequest w :: varint c
  | .envParamSet c w => keyByte .paramSet w :: varint c
  | .envParamValue c w => keyByte .paramValue w :: varint c
  | .envLogRequest c w => keyByte .logRequest w :: varint c
  | .envMemoryDumpRequest c w => keyByte .memoryDumpRequest w :: varint c
  | .envMemoryDumpPage c w => keyByte .memoryDumpPage w :: varint c

/-! ## The words of the opcode table -/

/-- The bytes of a table word, the first byte least significant. -/
def wordBytes : Nat → Nat → List Byte
  | 0, _ => []
  | n + 1, w => BitVec.ofNat 8 w :: wordBytes n (w / 256)

/-- The operation of a table word. The table's bits do not carry the row's format (EV, ENV, FRAME) or the channel: a
first byte that is a key is the ENV row's, a word of five bytes or more that begins with the start marker is a
FRAME, any other byte is taken as `RxByte` in `WAIT_START`, where reset leaves the receiver; the channel is 0 (log
entry 3). -/
def decodeTableWord (nbits w : Nat) : Option Instr :=
  match wordBytes ((nbits + 7) / 8) w with
  | [] => none
  | b :: bs =>
    match keyVariant b with
    | some _ => (decode 0xA5 [b, 0]).toOption.map (·.1)
    | none =>
      if b = 0xA5 ∧ 4 ≤ bs.length then
        (decode 0xA5 (opcodeByte .frame :: 0 :: (b :: bs ++ List.replicate ((bs.getD 2 0).toNat + 1) 0))).toOption.map (·.1)
      else some (decodeRx 0xA5 .waitStart 0 (.byte b))

end Sys2Proof
end

