-- ==== Sys2Proof/Machine/State.lean ====
section
/-! DEFINITION. The state of the block as plain data (spec/10_state.md), the results, failures and outputs of its
operations (spec/30_encoding.md R105, spec/60_exceptions.md R270), the stimuli of a script (R104, R112), the reasons a
step can stop, and the state after reset (R44). -/

namespace Sys2Proof.Machine

/-- A byte buffer: (index, byte) pairs, indices strictly rising, no byte equal to what an unlisted index reads as. -/
abbrev Memory := List Host.Cell

/-- What an index of a buffer that nothing has written reads as (DESIGN CHOICE, log entry 7). -/
abbrev unwritten : Byte := 0

/-- The phase register of the sender, `c.tx_phase` (R31): the field of the next byte to emit. -/
inductive TxPhase where
  | idle | start | seq | msgid | len | payload | crc
  deriving DecidableEq, Repr

/-- The phase register of the worker, `c.ses_phase` (R32). -/
inductive SesPhase where
  | stopped | checkTerm | checkStatus | receive | dispatch | deregister | finalBcast
  deriving DecidableEq, Repr

/-- `lock[m]` (R39). -/
inductive Lock where
  | free
  | held (a : Agent)
  deriving DecidableEq, Repr

/-- The levels of a fault signal of the communication subsystem (R12, R271). -/
inductive Level where
  | normal
  | fail
  deriving DecidableEq, Repr

/-- The cause kept with `RX_FAIL` (R130). -/
inductive RxCause where
  | crc
  | midframe
  deriving DecidableEq, Repr

/-- The cause kept with `ENC_FAIL` (R270). -/
inductive EncCause where
  | unknownTag
  | tooLong
  deriving DecidableEq, Repr

/-- The results of the operations (R40, R270). -/
inductive Result where
  | rxOk (seq msgid len : Byte) (payload : List Byte)
  | rxNoData
  | rxFail (cause : RxCause)
  | txOk
  | txFail
  | encOk
  | encFail (cause : EncCause)
  | found (v : Variant) (off : Nat) (w : BitVec 3)
  | noMatch
  | bodyOk (v : Variant) (x : BodyVal)
  | bodyFail
  | claimOk (i : SlotId)
  | startFail
  | crc (b : Byte)
  deriving DecidableEq, Repr

/-- A raised failure (R283) with what `raise` needs to know of it: the channel whose phase it writes and the caller it
returns to. -/
inductive Failure where
  | rxFail (c : ChanId) (cause : RxCause)
  | txFail (c : ChanId) (caller : Agent)
  | encFail (caller : Agent) (cause : EncCause)
  | bodyFail (caller : Agent)
  | startFail (c : ChanId)
  deriving DecidableEq, Repr

/-- What a called operation hands back to its caller: a result of R40, or that the lock was acquired or released, the
write was taken on, or the registry slot was found live. -/
inductive Return where
  | acquired
  | released
  | accepted
  | slotBusy
  | result (r : Result)
  deriving DecidableEq, Repr

/-- The outputs of the block (R105), and the results returned to those who issued a command. -/
inductive Output where
  /-- `emit(c, b)` -/
  | emit (c : ChanId) (b : Byte)
  /-- `signal(COMM, level)` -/
  | signal (level : Level)
  /-- `Dispatch(c, v, body)` -/
  | dispatch (c : ChanId) (v : Variant) (body : BodyVal)
  /-- `StatusCall(c)` -/
  | statusCall (c : ChanId)
  /-- the result of an operation, to the agent that called it -/
  | result (a : Agent) (r : Result)
  /-- the result of a `Reply` command, to the handler of `c` -/
  | replyDone (c : ChanId) (r : Result)
  /-- the result of a `Broadcast`, to its caller -/
  | bcastDone (caller : BcastCaller) (r : Result)
  deriving DecidableEq, Repr

/-- The write pending on a channel (R161, R166): none, a `TX.SEND`, or a `TX.RAW` with the bytes still to be written;
each with the agent that called it. The model's own control field (log entry 18). -/
inductive TxJob where
  | none
  | send (caller : Agent)
  | raw (caller : Agent) (rest : List Byte)
  deriving DecidableEq, Repr

/-- Which handler is running on behalf of a channel (R223, R227). -/
inductive HandlerKind where
  | status
  | dispatch (v : Variant)
  deriving DecidableEq, Repr

/-- Where a worker is inside a composite operation: the position in the listings of R142, R221, R226, R229 and R230.
The model's own control field (log entry 9). -/
inductive WorkerCtl where
  /-- no composite operation in progress: `ses_phase` says what is next -/
  | run
  /-- `SES.START`: at `LOCK.ACQ`, at the transport writes, at `LOCK.REL`, at the flag, at slot `i`, at the entry -/
  | startAcq | startInit | startRel | startArm
  | startClaim (i : SlotId)
  | startEnter
  /-- `RX.RECEIVE`: at the top of the loop, waiting for an event, returned with a result -/
  | recvTop | recvRead
  | recvDone (r : Result)
  /-- pass 1 has matched: the row of `v` in R227's table is next -/
  | matched (v : Variant) (off : Nat) (w : BitVec 3)
  /-- a handler is running and may issue commands (R229) -/
  | handler (h : HandlerKind)
  /-- `SES.SEND`: at `LOCK.ACQ`, at `ENV.ENCODE`, at `TX.SEND`, waiting for its result, at `LOCK.REL` -/
  | replyAcq (h : HandlerKind) (t : Nat) (body : List Byte)
  | replyEncode (h : HandlerKind) (t : Nat) (body : List Byte)
  | replySend (h : HandlerKind)
  | replyWait (h : HandlerKind)
  | replyRel (h : HandlerKind) (r : Result)
  /-- the handler is blocked in its broadcast `k` -/
  | handlerBcast (h : HandlerKind) (k : BcastId)
  /-- the stopping worker is blocked in its final broadcast `k` (R230) -/
  | finalBcast (k : BcastId)
  deriving DecidableEq, Repr

/-- What a broadcast does once it has released a session's lock (R205): go on with the send's result in mind, or
return the encode failure. -/
inductive AfterRel where
  | sent (r : Result)
  | encFailed (cause : EncCause)
  deriving DecidableEq, Repr

/-- Where a broadcast is in the listing of R205 (with R209's copy). -/
inductive BcastStage where
  | visit
  | acq (c : ChanId)
  | encode (c : ChanId)
  | copy (c : ChanId)
  | send (c : ChanId)
  | raw (c : ChanId)
  | wait (c : ChanId)
  | rel (c : ChanId) (after : AfterRel)
  deriving DecidableEq, Repr

/-- The context of a running broadcast (R42): its private frame copy, the slots it has not visited, the result it will
report, and its place in the listing. -/
structure Bcast where
  id      : BcastId
  caller  : BcastCaller
  tag     : Nat
  body    : List Byte
  rest    : List SlotId
  frame   : Option (List Byte)
  result  : Result
  stage   : BcastStage
  deriving DecidableEq, Repr

/-- A channel instance (R20): receiver (R22 to R28), sender (R29 to R31), worker (R32 to R35), and the bytes the
channel device holds for the receiver, `RXS(c)` (R60, R287). -/
structure Chan where
  rxState       : RxState
  rxSeq         : Byte
  rxMsgid       : Byte
  rxLen         : Byte
  rxCnt         : Nat
  rxCrc         : Byte
  rxBuf         : Memory
  rxs           : List Byte
  txSeq         : Byte
  txBuf         : Memory
  txLen         : Byte
  txPhase       : TxPhase
  txIdx         : Nat
  txCrc         : Byte
  txHdrSeq      : Byte
  txHdrMsgid    : Byte
  txJob         : TxJob
  sesPhase      : SesPhase
  sesSlot       : Option SlotId
  sesTermReq    : Bool
  sesLastStatus : Time
  ctl           : WorkerCtl
  deriving DecidableEq, Repr

/-- What a script presents to the block: the events of R104, the turn of an agent to take its next step, and what the
environment does around the block. -/
inductive Stim where
  /-- `RxByte(c, b)`: the device of `c` offers `b` after the bytes it already holds -/
  | rxByte (c : ChanId) (b : Byte)
  /-- the device of `c` offers again the byte it holds (R287) -/
  | rxOffer (c : ChanId)
  /-- `RxTimeout(c)` -/
  | rxTimeout (c : ChanId)
  /-- `ChReset(c)` as it reaches the receiver of `c` -/
  | chResetRx (c : ChanId)
  /-- `ChReset(c)` as it reaches the sender of `c` -/
  | chResetTx (c : ChanId)
  /-- `TxReady(c)` -/
  | txReady (c : ChanId)
  /-- `TxTimeout(c)` -/
  | txTimeout (c : ChanId)
  /-- `Start(c)` -/
  | start (c : ChanId)
  /-- `Terminate(c)` -/
  | terminate (c : ChanId)
  /-- `StatusDue(c)` -/
  | statusDue (c : ChanId)
  /-- `Reply(c, t, B)` -/
  | reply (c : ChanId) (t : Nat) (body : List Byte)
  /-- `Broadcast(t, B)` -/
  | broadcast (caller : BcastCaller) (t : Nat) (body : List Byte)
  /-- `HandlerDone(c)` -/
  | handlerDone (c : ChanId)
  /-- the worker of `c` takes its next step (R72) -/
  | worker (c : ChanId)
  /-- the broadcast `k` takes its next step; `i` is the slot it chooses if it is about to visit one (R204) -/
  | bcast (k : BcastId) (i : SlotId)
  /-- one cycle of the receiver's event inputs of `c` (R106, R282) -/
  | rxCycle (c : ChanId) (reset : Bool) (byte : Option Byte) (timeout : Bool)
  /-- one cycle of the sender's event inputs of `c` (R106, R282) -/
  | txCycle (c : ChanId) (reset ready timeout : Bool)
  /-- `rst` with the values on the configuration inputs (R310) -/
  | rst (inputs : CfgRegs)
  /-- the clock collaborator's time moves on to `t` (R293) -/
  | clock (t : Time)
  /-- the medium selection of `c` changes to `m` (R77) -/
  | selectMedium (c : ChanId) (m : MediumId)
  /-- an operation word (spec/opcode_table.json; log entry 2) -/
  | op (word : List Byte)
  deriving DecidableEq, Repr

/-- The state of the block and of what stands around it in a run. -/
structure State where
  /-- the parameters of R9: no operation writes them -/
  config : Config
  /-- the configuration registers (R36) -/
  cfg    : CfgRegs
  /-- the channel instances (R20) -/
  chans  : List Chan
  /-- the instance registry (R38) -/
  reg    : List (Option ChanId)
  /-- one lock per medium (R39) -/
  locks  : List Lock
  /-- `medium(c)` as the environment has it now (R39, R77) -/
  medium : List MediumId
  /-- the running broadcasts (R42) -/
  bcasts : List Bcast
  /-- the number of the next broadcast's context (log entry 14) -/
  nextBc : BcastId
  /-- what the clock collaborator answers (R293) -/
  now    : Time
  /-- the outputs so far, oldest first (R18, R105) -/
  out    : List Output
  /-- the stimuli still to come (R112) -/
  script : List Stim
  deriving DecidableEq, Repr

/-- Why the machine stops. Every one is safe: the spec gives such an access no effect. -/
inductive Fault where
  /-- raised by any operation or stimulus on a channel outside `0 .. N_CHAN-1` (R20) -/
  | noSuchChannel (c : ChanId)
  /-- raised by `LOCK.ACQ` and `LOCK.REL` on a medium no lock exists for (R39) -/
  | noSuchMedium (m : MediumId)
  /-- raised by `RX.PAYLOAD` and `TX.SEND` on a buffer index above 254 (R28, R30) -/
  | noSuchIndex (c : ChanId) (i : Nat)
  deriving DecidableEq, Repr

/-- Why a step is refused. Every one is safe: the machine stops where the spec gives no effect. -/
inductive Refusal where
  /-- raised by `exec` for a row that has no meaning yet -/
  | notModelled (mnemonic : String)
  /-- raised by `step` on an operation word that decodes to nothing -/
  | illegalWord (e : DecodeError)
  /-- raised by `TX.SEND`, `TX.RAW`, `ENV.ENCODE` where the caller does not hold `lock[medium(c)]` (R71, R161, R166, R176) -/
  | lockNotHeld (a : Agent) (c : ChanId)
  /-- raised by `TX.SEND`, `TX.RAW`, `ENV.ENCODE`, `LOCK.REL` while a write is pending: its caller is blocked (R165, R168) -/
  | sendPending (m : MediumId)
  /-- raised by `LOCK.REL` by an agent that does not hold the lock (R75) -/
  | notLockHolder (a : Agent) (m : MediumId)
  /-- raised by `REG.CLAIM` where the worker already holds a slot (R201) -/
  | slotAlreadyHeld (c : ChanId)
  /-- raised by `step` on a change of medium selection while a lock it concerns is held (R39, U21) -/
  | mediumInUse (c : ChanId)
  /-- raised by `step` on a reset with illegal configuration inputs (R36, U9) -/
  | illegalConfiguration
  /-- raised by `step` on a clock that runs backwards (U14) -/
  | clockBackwards
  deriving DecidableEq, Repr

/-- A channel instance after reset (R44); a register R44 gives no value holds 0 (DESIGN CHOICE, log entry 6). -/
def Chan.reset : Chan where
  rxState       := .waitStart
  rxSeq         := 0
  rxMsgid       := 0
  rxLen         := 0
  rxCnt         := 0
  rxCrc         := 0
  rxBuf         := []
  rxs           := []
  txSeq         := 0x00
  txBuf         := []
  txLen         := 0
  txPhase       := .idle
  txIdx         := 0
  txCrc         := 0
  txHdrSeq      := 0
  txHdrMsgid    := 0
  txJob         := .none
  sesPhase      := .stopped
  sesSlot       := none
  sesTermReq    := false
  sesLastStatus := 0
  ctl           := .run

/-- A machine with the parameters `k` right after a reset with the configuration inputs `inputs`. -/
def State.resetWith (k : Config) (inputs : CfgRegs) : State where
  config := k
  cfg    := inputs
  chans  := List.replicate k.nChan Chan.reset
  reg    := List.replicate k.maxInstances none
  locks  := List.replicate k.nMedia .free
  medium := k.medium
  bcasts := []
  nextBc := 0
  now    := 0
  out    := []
  script := []

/-- The machine right after reset, at the parameters of R9. -/
def State.reset : State := State.resetWith Config.default CfgRegs.default

end Sys2Proof.Machine
end

