-- ==== Sys2Proof/Machine/Operands.lean ====
section
/-! DEFINITION. Every operand form of the block: the CRC-8 of a byte string (spec/40_crc.md), the tags of the variants
(R98), the envelope as bytes (R99), the skipping and the two passes over a payload (R178 to R180), the body codec
(R181), the bytes of a frame (R90, R91, R113). -/

namespace Sys2Proof.Machine

/-! ## CRC-8 -/

/-- One shift of the default CRC step (R121): bit 7 first. -/
def crcShift (polynomial r : Byte) : Byte :=
  if r.msb then (r <<< 1) ^^^ polynomial else r <<< 1

/-- One shift with the least-significant bit first: the mirror image (PRESUMED, log entry 15). -/
def crcShiftLsb (polynomial r : Byte) : Byte :=
  if r.getLsbD 0 then (r >>> 1) ^^^ polynomial.reverse else r >>> 1

/-- `f` applied `n` times. -/
def repeatByte (f : Byte → Byte) : Nat → Byte → Byte
  | 0, r => r
  | n + 1, r => repeatByte f n (f r)

/-- `crc8_update` of a CRC definition (R121, R122). -/
def crcStep (d : CrcDef) (running b : Byte) : Byte :=
  match d with
  | .poly p true => repeatByte (crcShift p) 8 (running ^^^ b)
  | .poly p false => repeatByte (crcShiftLsb p) 8 (running ^^^ b)
  | .peer => Config.peerCrcStep running b

/-- `crc8_update(running, byte)` at the machine's parameters. -/
def crc8Update (k : Config) (running b : Byte) : Byte := crcStep k.crc running b

/-- `crc8_update_block(running, buf)` (R123). -/
def crc8Block (k : Config) (running : Byte) (buf : List Byte) : Byte :=
  buf.foldl (crc8Update k) running

/-- The CRC byte of a running value: the final XOR `CRC_XOROUT`, none at the default (R9, R124; log entry 15). -/
def crcFinal (k : Config) (running : Byte) : Byte := running ^^^ k.crcXorout

/-- The accumulator after a frame's header and payload (R91, R124, R163). -/
def frameRunning (k : Config) (seq msgid len : Byte) (payload : List Byte) : Byte :=
  crc8Block k k.crcInit (seq :: msgid :: len :: payload)

/-- The CRC byte of a frame (R91). -/
def frameCrc (k : Config) (seq msgid : Byte) (payload : List Byte) : Byte :=
  crcFinal k (frameRunning k seq msgid (BitVec.ofNat 8 payload.length) payload)

/-- `FRAME(seq, msgid, P)` (R90, R113). -/
def frameBytes (k : Config) (seq msgid : Byte) (payload : List Byte) : List Byte :=
  wireFrame k.start seq msgid payload (frameCrc k seq msgid payload)

/-! ## Tags -/

/-- `TAG(v)` (R98). -/
def tagOf (k : Config) (v : Variant) : Nat := k.tags.getD v.index 0

/-- `variant_of(n)` (R175): the variant with the tag `n`; the number 0 is no tag (R101). -/
def variantOf (k : Config) (n : Nat) : Option Variant :=
  if n = 0 then none else Variant.all.find? fun v => tagOf k v == n

/-! ## The envelope -/

/-- The wire type of a length-delimited field (R96). -/
abbrev lengthDelimited : BitVec 3 := 2

/-- The envelope of tag `t` and body `body` (R99, R113, R176): key, length, body. -/
def envelope (t : Nat) (body : List Byte) : List Byte :=
  varint (keyOf t lengthDelimited) ++ (varint body.length ++ body)

/-- `skip` (R179): how many bytes the value of wire type `w` at the front of `bs` takes, if it lies inside `bs`. -/
def skipField (w : BitVec 3) (bs : List Byte) : Option Nat :=
  if w = 0 then (readVarint bs).map (·.2)
  else if w = 1 then (if 8 ≤ bs.length then some 8 else none)
  else if w = 2 then
    match readVarint bs with
    | some (n, p) => if p + n ≤ bs.length then some (p + n) else none
    | none => none
  else if w = 5 then (if 4 ≤ bs.length then some 4 else none)
  else none

/-- The scan of pass 1 (R178) from the offset `pos`, where `bs` is what is left of the payload. -/
def scanFields (k : Config) : Nat → Nat → List Byte → Option (Variant × Nat × BitVec 3)
  | 0, _, _ => none
  | fuel + 1, pos, bs =>
    if bs.isEmpty then none
    else
      match readVarint bs with
      | none => none
      | some (key, n) =>
        if keyField key = 0 then none
        else
          match variantOf k (keyField key) with
          | some v => some (v, pos + n, keyWire key)
          | none =>
            match skipField (keyWire key) (bs.drop n) with
            | none => none
            | some m => scanFields k fuel (pos + n + m) ((bs.drop n).drop m)

/-- `discriminate(P)`, pass 1 (R178): the first field with a known tag: the variant, the offset just after its key, its
wire type; or none. A field takes at least one byte, so the payload's length bounds the scan. -/
def discriminate (k : Config) (payload : List Byte) : Option (Variant × Nat × BitVec 3) :=
  scanFields k (payload.length + 1) 0 payload

/-- The body bytes of a length-delimited field whose value begins `bs` (R180): its length must fit. -/
def fieldBody (bs : List Byte) : Option (List Byte) :=
  match readVarint bs with
  | some (n, p) => if p + n ≤ bs.length then some ((bs.drop p).take n) else none
  | none => none

/-- `body_encode(v, x)` (R181). -/
def bodyEncode (k : Config) (v : Variant) (x : BodyVal) : List Byte :=
  match k.codec with
  | .identity => x
  | .peer => Config.peerBodyEncode v.index x

/-- Whether a body value is one of the type `Body v` (R181). -/
def bodyOk (k : Config) (v : Variant) (x : BodyVal) : Bool :=
  match k.codec with
  | .identity => true
  | .peer => Config.peerBodyOk v.index x

/-- `body_decode(v, B) : Option (Body v)` (R181): a value it gives is one of the type `Body v` (`bodyDecode_ok`). -/
def bodyDecode (k : Config) (v : Variant) (body : List Byte) : Option BodyVal :=
  match k.codec with
  | .identity => some body
  | .peer => (Config.peerBodyDecode v.index body).filter fun x => Config.peerBodyOk v.index x

/-- How many fields a variant has (R181); the identity codec has one, the bytes themselves. -/
def bodyFieldCount (k : Config) (v : Variant) : Nat :=
  match k.codec with
  | .identity => 1
  | .peer => Config.peerFieldCount v.index

/-- The value of field `f` of a body; none where it is an absent optional field (R181). -/
def bodyField (k : Config) (v : Variant) (f : Nat) (x : BodyVal) : Option (List Byte) :=
  match k.codec with
  | .identity => some x
  | .peer => Config.peerField v.index f x

/-- The documented default of field `f` of a variant (R181, R182); the identity codec has no optional field. -/
def bodyFieldDefault (k : Config) (v : Variant) (f : Nat) : List Byte :=
  match k.codec with
  | .identity => []
  | .peer => Config.peerFieldDefault v.index f

/-- `y` is `x` with each absent optional field at its documented default: equal to `x` on every present field, the
default on every absent one (R181, L1). -/
def bodyFilled (k : Config) (v : Variant) (x y : BodyVal) : Prop :=
  ∀ f, f < bodyFieldCount k v → bodyField k v f y = some ((bodyField k v f x).getD (bodyFieldDefault k v f))

/-- Law L1 of the body codec (R181), the round trip. L2 and L3 hold of any pair of functions of these types. A model
assumes the law of a parameter as it assumes P1 and P2 of `crc8_update` (R122): a claim that needs it has it as a
premise (log entry 16); an instance that has all of them is `lawful`. -/
def codecLawful (k : Config) : Prop :=
  ∀ (v : Variant) (x : BodyVal), bodyOk k v x = true →
    ∃ y, bodyDecode k v (bodyEncode k v x) = some y ∧ bodyFilled k v x y

/-- The properties P1 and P2 of the CRC step (R122). -/
def crcLawful (k : Config) : Prop :=
  (∀ r, Function.Bijective fun b => crc8Update k r b) ∧ ∀ b, Function.Bijective fun r => crc8Update k r b

/-- A legal instance of the block whose open parameters have what the spec says may be assumed of them: P1 and P2 of the
CRC step (R122) and L1 of the body codec (R181). -/
def lawful (k : Config) : Prop := k.legal = true ∧ crcLawful k ∧ codecLawful k

/-- The body bytes pass 2 extracts from a payload for a variant (R180), before `body_decode`. -/
def bodyBytes (k : Config) (v : Variant) (payload : List Byte) : Option (List Byte) :=
  match discriminate k payload with
  | some (v', off, w) => if v' = v ∧ w = lengthDelimited then fieldBody (payload.drop off) else none
  | none => none

/-- `body(v, P)`, pass 2 (R180): the typed value, or none where it raises `BODY_FAIL`. -/
def decodeBody (k : Config) (v : Variant) (payload : List Byte) : Option BodyVal :=
  (bodyBytes k v payload).bind (bodyDecode k v)

end Sys2Proof.Machine
end

