-- ==== Sys2Proof/Machine/Flags.lean ====
section
/-! DEFINITION. The block has no arithmetic flags (spec/10_state.md R40); what stands in their place are the result
codes (R270), the closed table of fault signals (R271), and the priority of colliding events (R282). -/

namespace Sys2Proof.Machine

/-- The numeric code of a result (R270). A CRC value is data, not a status; its operation succeeds. -/
def Result.code : Result → Nat
  | .rxOk _ _ _ _ => 0
  | .txOk => 0
  | .encOk => 0
  | .bodyOk _ _ => 0
  | .claimOk _ => 0
  | .found _ _ _ => 0
  | .crc _ => 0
  | .rxNoData => 1
  | .rxFail _ => 2
  | .txFail => 2
  | .encFail _ => 3
  | .bodyFail => 4
  | .startFail => 5
  | .noMatch => 6

/-- The result a failure returns (R283c). -/
def Failure.result : Failure → Result
  | .rxFail _ cause => .rxFail cause
  | .txFail _ _ => .txFail
  | .encFail _ cause => .encFail cause
  | .bodyFail _ => .bodyFail
  | .startFail _ => .startFail

/-- Whom a failure returns to: the receiver and the registry are called by the worker of the channel (R224, R221). -/
def Failure.caller : Failure → Agent
  | .rxFail c _ => .worker c
  | .txFail _ a => a
  | .encFail a _ => a
  | .bodyFail a => a
  | .startFail c => .worker c

/-- The fault signal of a failure (R271): every failure signals `FAIL` but `START_FAIL`, which signals nothing
(R280). -/
def Failure.level : Failure → Option Level
  | .rxFail _ _ => some .fail
  | .txFail _ _ => some .fail
  | .encFail _ _ => some .fail
  | .bodyFail _ => some .fail
  | .startFail _ => none

/-- The port value of a level (R106): 0 is `NORMAL`, 1 is `FAIL`. -/
def Level.code : Level → Nat
  | .normal => 0
  | .fail => 1

/-- The event the receiver takes in a cycle (R282): `ChReset`, then `RxByte`, then `RxTimeout`; the others are
dropped. -/
def arbitrateRx (reset : Bool) (byte : Option Byte) (timeout : Bool) : Option RxEvent :=
  if reset then some .chReset
  else
    match byte with
    | some b => some (.byte b)
    | none => if timeout then some .timeout else none

/-- What can reach a pending write (R104). -/
def arbitrateTx (c : ChanId) (reset ready timeout : Bool) : Option Stim :=
  if reset then some (.chResetTx c)
  else if ready then some (.txReady c)
  else if timeout then some (.txTimeout c)
  else none

end Sys2Proof.Machine
end

