-- ==== Sys2Proof/Machine/Ops.lean ====
section
/-! DEFINITION. The named operations over buffers and registers, the outputs, and the two shared operations of
spec/60_exceptions.md: raising a failure (R283) and returning to the caller (R284). -/

namespace Sys2Proof.Machine

/-- What a meaning answers. -/
abbrev Answer := Host.Outcome State Fault Refusal

/-! ## Buffers (R12, R28, R30, R62) -/

/-- `MemRead(buf, i, 1)`. -/
def Memory.read : Memory → Nat → Byte
  | [], _ => unwritten
  | (a, x) :: m, i => if a = i then x else Memory.read m i

/-- `MemWrite(buf, i, 1, b)`, keeping the canonical form. -/
def Memory.write : Memory → Nat → Byte → Memory
  | [], i, b => if b = unwritten then [] else [(i, b)]
  | (a, x) :: m, i, b =>
    if i < a then (if b = unwritten then (a, x) :: m else (i, b) :: (a, x) :: m)
    else if i = a then (if b = unwritten then m else (i, b) :: m)
    else (a, x) :: Memory.write m i b

/-- `MemRead(buf, i, n)`. -/
def Memory.readN (m : Memory) (i : Nat) : Nat → List Byte
  | 0 => []
  | n + 1 => Memory.read m i :: Memory.readN m (i + 1) n

/-- `MemWrite(buf, i, len(bs), bs)`. -/
def Memory.writeN (m : Memory) (i : Nat) : List Byte → Memory
  | [] => m
  | b :: bs => Memory.writeN (Memory.write m i b) (i + 1) bs

/-- The canonical form: indices strictly rising, no byte equal to what an unlisted index reads as. -/
def Memory.wf : Memory → Bool
  | [] => true
  | [(_, x)] => x != unwritten
  | (a, x) :: (a', x') :: m => x != unwritten && decide (a < a') && Memory.wf ((a', x') :: m)

/-- The payload of the frame last received, `c.rx_buf[0 .. c.rx_len]` (R28, R226). -/
def Chan.rxPayload (ch : Chan) : List Byte := Memory.readN ch.rxBuf 0 ch.rxLen.toNat

/-- The payload of the frame to send, `c.tx_buf[0 .. c.tx_len]` (R30, R160). -/
def Chan.txPayload (ch : Chan) : List Byte := Memory.readN ch.txBuf 0 ch.txLen.toNat

/-- The frame `TX.SEND` will emit on a channel with the message-id `msgid` (R161, R205). -/
def Chan.txFrame (k : Config) (ch : Chan) (msgid : Byte) : List Byte :=
  [k.start, ch.txSeq, msgid, ch.txLen] ++ ch.txPayload ++
    [crcFinal k (frameRunning k ch.txSeq msgid ch.txLen ch.txPayload)]

/-! ## Channels, locks, registry -/

/-- Writes the registers of channel `c`. -/
def State.setChan (s : State) (c : ChanId) (ch : Chan) : State := { s with chans := s.chans.set c ch }

/-- Does `f` with the registers of channel `c`; a channel that does not exist faults (R20). -/
def State.onChan (s : State) (c : ChanId) (f : Chan → Answer) : Answer :=
  match s.chans[c]? with
  | some ch => f ch
  | none => .fault (.noSuchChannel c)

/-- Changes the registers of channel `c`, if there is one. -/
def State.updChan (s : State) (c : ChanId) (f : Chan → Chan) : State :=
  match s.chans[c]? with
  | some ch => s.setChan c (f ch)
  | none => s

/-- `medium(c)` (R39); a channel the map does not list has its own (the default of R9). -/
def State.mediumOf (s : State) (c : ChanId) : MediumId := s.medium.getD c c

/-- Writes `lock[m]` (R75). -/
def State.setLock (s : State) (m : MediumId) (l : Lock) : State := { s with locks := s.locks.set m l }

/-- Whether `a` holds `lock[medium(c)]` (R71). -/
def State.holds (s : State) (a : Agent) (c : ChanId) : Bool :=
  s.locks[s.mediumOf c]? == some (.held a)

/-- Whether a write is pending on some channel of the medium `m` (R165): its caller is blocked. -/
def State.writePending (s : State) (m : MediumId) : Bool :=
  s.chans.zipIdx.any fun (ch, c) => s.mediumOf c == m && ch.txJob != .none

/-- Writes `reg[i]` (R38). -/
def State.setReg (s : State) (i : SlotId) (r : Option ChanId) : State := { s with reg := s.reg.set i r }

/-- Changes the context of broadcast `k`, if it runs. -/
def State.updBcast (s : State) (k : BcastId) (f : Bcast → Bcast) : State :=
  { s with bcasts := s.bcasts.map fun b => if b.id = k then f b else b }

/-- The context of broadcast `k` (R42). -/
def State.findBcast (s : State) (k : BcastId) : Option Bcast := s.bcasts.find? fun b => b.id == k

/-! ## Outputs (R105) -/

/-- Appends an output. -/
def State.output (s : State) (o : Output) : State := { s with out := s.out ++ [o] }

/-- `emit(c, b)` (R12). -/
def State.emit (s : State) (c : ChanId) (b : Byte) : State := s.output (.emit c b)

/-- `signal(COMM, level)` (R12). -/
def State.signal (s : State) (l : Level) : State := s.output (.signal l)

/-- `TXS(c)` (R60): the bytes emitted on channel `c`, first byte first. -/
def State.txs (s : State) (c : ChanId) : List Byte :=
  s.out.filterMap fun o =>
    match o with
    | .emit c' b => if c' = c then some b else none
    | _ => none

/-- The fault signals so far (R18). -/
def State.signals (s : State) : List Level :=
  s.out.filterMap fun o =>
    match o with
    | .signal l => some l
    | _ => none

/-! ## Returning to the caller (R284) -/

/-- The return of a broadcast to its caller (R203, R206): the context is gone, the caller carries on; a stopping worker
is stopped (R230). -/
def State.bcastReturn (s : State) (b : Bcast) (r : Result) : State :=
  let s := { s with bcasts := s.bcasts.filter fun b' => b'.id != b.id }
  let s := s.output (.bcastDone b.caller r)
  match b.caller with
  | .driver => s
  | .handler c =>
    s.updChan c fun ch =>
      match ch.ctl with
      | .handlerBcast h k => if k = b.id then { ch with ctl := .handler h } else ch
      | _ => ch
  | .stop c =>
    s.updChan c fun ch =>
      match ch.ctl with
      | .finalBcast k => if k = b.id then { ch with sesPhase := .stopped, ctl := .run } else ch
      | _ => ch

/-- The code a broadcast will report after a send (R206): the most recent failure. -/
def worstResult (before r : Result) : Result := if r = .txFail then .txFail else before

/-- Where a broadcast goes once it holds the lock of session `c` (R205, R209). -/
def Bcast.afterAcq (k : Config) (b : Bcast) (c : ChanId) : BcastStage :=
  match b.frame with
  | none => .encode c
  | some _ => if k.bcastReframe then .copy c else .raw c

/-- A broadcast takes what an operation it called hands back, and goes on in the listing of R205. -/
def State.resumeBcast (s : State) (b : Bcast) (r : Return) : State :=
  match b.stage, r with
  | .acq c, .acquired => s.updBcast b.id fun b => { b with stage := b.afterAcq s.config c }
  | .encode c, .result .encOk =>
    s.updBcast b.id fun b =>
      { b with
        frame := (s.chans[c]?).map fun ch => ch.txFrame s.config s.config.msgidEnvelope
        stage := .send c }
  | .encode c, .result (.encFail cause) => s.updBcast b.id fun b => { b with stage := .rel c (.encFailed cause) }
  | .send c, .accepted => s.updBcast b.id fun b => { b with stage := .wait c }
  | .raw c, .accepted => s.updBcast b.id fun b => { b with stage := .wait c }
  | .wait c, .result .txOk => s.updBcast b.id fun b => { b with stage := .rel c (.sent .txOk) }
  | .wait c, .result .txFail => s.updBcast b.id fun b => { b with stage := .rel c (.sent .txFail) }
  | .rel _ (.sent r), .released =>
    s.updBcast b.id fun b => { b with stage := .visit, result := worstResult b.result r }
  | .rel _ (.encFailed cause), .released => s.bcastReturn b (.encFail cause)
  | _, _ => s

/-- A worker takes what an operation it called hands back, and goes on in the listings of R142, R221 and R229. -/
def Chan.resume (ch : Chan) (r : Return) : Chan :=
  match ch.ctl, r with
  | .startAcq, .acquired => { ch with ctl := .startInit }
  | .startRel, .released => { ch with ctl := .startArm }
  | .startClaim i, .slotBusy => { ch with ctl := .startClaim (i + 1) }
  | .startClaim _, .result (.claimOk _) => { ch with ctl := .startEnter }
  | .startClaim _, .result .startFail => { ch with ctl := .run }
  | .recvTop, .result r => { ch with ctl := .recvDone r }
  | .recvRead, .result r => { ch with ctl := .recvDone r }
  | .replyAcq h t body, .acquired => { ch with ctl := .replyEncode h t body }
  | .replyEncode h _ _, .result .encOk => { ch with ctl := .replySend h }
  | .replyEncode h _ _, .result (.encFail cause) => { ch with ctl := .replyRel h (.encFail cause) }
  | .replySend h, .accepted => { ch with ctl := .replyWait h }
  | .replyWait h, .result .txOk => { ch with ctl := .replyRel h .txOk }
  | .replyWait h, .result .txFail => { ch with ctl := .replyRel h .txFail }
  | .replyRel h _, .released => { ch with ctl := .handler h }
  | _, _ => ch

/-- The output a worker makes as it carries on: the end of a `Reply` hands its result to the handler (R229). -/
def Chan.resumeOutput (c : ChanId) (ch : Chan) (r : Return) : List Output :=
  match ch.ctl, r with
  | .replyRel _ res, .released => [.replyDone c res]
  | _, _ => []

/-- The caller carries on with what a called operation hands back (R284). -/
def State.resume (s : State) (a : Agent) (r : Return) : State :=
  match a with
  | .driver => s
  | .worker c =>
    match s.chans[c]? with
    | some ch => { s.setChan c (ch.resume r) with out := s.out ++ ch.resumeOutput c r }
    | none => s
  | .bcast k =>
    match s.findBcast k with
    | some b => s.resumeBcast b r
    | none => s

/-- An operation ends with a result, returned to its caller (R13, R40, R284). -/
def State.ret (s : State) (a : Agent) (r : Result) : State :=
  (s.output (.result a r)).resume a (.result r)

/-! ## Raising a failure (R283) -/

/-- The phase register a failure writes (R283a): `rx_state` for both causes of `RX_FAIL`, `tx_phase` for `TX_FAIL`
(the write is no longer pending), none for the codec and the registry. -/
def Failure.writePhase (f : Failure) (s : State) : State :=
  match f with
  | .rxFail c _ => s.updChan c fun ch => { ch with rxState := .waitStart }
  | .txFail c _ => s.updChan c fun ch => { ch with txPhase := .idle, txJob := .none }
  | .encFail _ _ => s
  | .bodyFail _ => s
  | .startFail _ => s

/-- The fault signal of a failure, if it has one (R271, R283b). -/
def State.signalOpt (s : State) (l : Option Level) : State :=
  match l with
  | some l => s.signal l
  | none => s

/-- `raise X(info)` (R12, R283): the fault signal of R271, the phase register, the result to the caller. Nothing is
saved. -/
def State.raise (s : State) (f : Failure) : State :=
  (f.writePhase (s.signalOpt f.level)).ret f.caller f.result

end Sys2Proof.Machine
end

