-- ==== Sys2Proof/Machine/Crc.lean ====
section
/-! DEFINITION. Family CRC (spec/40_crc.md): the two operations, called by whoever asks, since their rules name no caller. Inside the block the receiver
and the sender fold with the same functions. -/

namespace Sys2Proof.Machine

/-- `CRC8.UPDATE` (R121): one CRC-8 step over a running accumulator. -/
def execCrc8Update (running b : Byte) (s : State) : Answer :=
  .next (s.ret .driver (.crc (crc8Update s.config running b)))

/-- `CRC8.BLOCK` (R123): folds a buffer; an empty one returns the running value. -/
def execCrc8Block (running : Byte) (buf : List Byte) (s : State) : Answer :=
  .next (s.ret .driver (.crc (crc8Block s.config running buf)))

end Sys2Proof.Machine
end

