-- ==== Sys2Proof/Machine/Tx.lean ====
section
/-! DEFINITION. Family TX (spec/42_tx_transport.md): the sender in its byte-serial form (R162), one byte emitted per
`TxReady`, and the failure of a pending write (R164). -/

namespace Sys2Proof.Machine

/-- Does `f` if `a` may use the transport of channel `c` for sending: it holds `lock[medium(c)]` (R71), and no write is
pending on that medium, since a pending write blocks its caller (R70, R168). -/
def State.onTransport (s : State) (a : Agent) (c : ChanId) (f : Chan → Answer) : Answer :=
  s.onChan c fun ch =>
    if s.holds a c then
      if s.writePending (s.mediumOf c) then .refused (.sendPending (s.mediumOf c)) else f ch
    else .refused (.lockNotHeld a c)

/-- The byte `TX.SEND` writes next, and the sender registers after it (R161, R162); none when `tx_phase` is `IDLE`. -/
def Chan.sendByte (k : Config) (ch : Chan) : Option (Byte × Chan) :=
  match ch.txPhase with
  | .idle => none
  | .start => some (k.start, { ch with txPhase := .seq })
  | .seq => some (ch.txHdrSeq, { ch with txCrc := crc8Update k ch.txCrc ch.txHdrSeq, txPhase := .msgid })
  | .msgid => some (ch.txHdrMsgid, { ch with txCrc := crc8Update k ch.txCrc ch.txHdrMsgid, txPhase := .len })
  | .len =>
    some (ch.txLen,
      { ch with
        txCrc := crc8Update k ch.txCrc ch.txLen
        txPhase := if ch.txLen = 0 then .crc else .payload })
  | .payload =>
    let b := Memory.read ch.txBuf ch.txIdx
    some (b,
      { ch with
        txCrc := crc8Update k ch.txCrc b
        txIdx := ch.txIdx + 1
        txPhase := if ch.txIdx + 1 = ch.txLen.toNat then .crc else .payload })
  | .crc => some (crcFinal k ch.txCrc, { ch with txPhase := .idle, txJob := .none })

/-- The call of `TX.SEND` (R161): the sequence byte is read and the counter advances, once per send, at its start. -/
def sendCall (c : ChanId) (a : Agent) (msgid : Byte) (s : State) : Answer :=
  s.onTransport a c fun ch =>
    .next ((s.setChan c
      { ch with
        txSeq := ch.txSeq + 1
        txHdrSeq := ch.txSeq
        txHdrMsgid := msgid
        txCrc := s.config.crcInit
        txIdx := 0
        txPhase := .start
        txJob := .send a }).resume a .accepted)

/-- `TxReady(c)` for a pending `TX.SEND` (R161, R162): one byte is emitted; after the last one the result is `TX_OK`. -/
def sendReady (c : ChanId) (s : State) : Answer :=
  s.onChan c fun ch =>
    match ch.txJob with
    | .send a =>
      if ch.txPhase = .payload ∧ bufSize ≤ ch.txIdx then .fault (.noSuchIndex c ch.txIdx)
      else
        match ch.sendByte s.config with
        | none => .next s
        | some (b, ch') =>
          let s' := (s.setChan c ch').emit c b
          if ch'.txJob = .none then .next (s'.ret a .txOk) else .next s'
    | _ => .next s

/-- `TxTimeout(c)` or `ChReset(c)` while a write of `TX.SEND` is pending (R164). -/
def sendAbort (c : ChanId) (s : State) : Answer :=
  s.onChan c fun ch =>
    match ch.txJob with
    | .send a => .next (s.raise (.txFail c a))
    | _ => .next s

/-- `TX.SEND` (R161, R162, R164). Without a pending `TX.SEND` a sender event has no step (R281). -/
def execTxSend (c : ChanId) (x : SendInput) (s : State) : Answer :=
  match x with
  | .call a msgid => sendCall c a msgid s
  | .ready => sendReady c s
  | .timeout => sendAbort c s
  | .chReset => sendAbort c s

/-- `tx_phase` of a `TX.RAW` after the byte at phase `p`, with `rest` still to write: the field of the next byte (log
entry 18). -/
def rawPhase (p : TxPhase) (rest : List Byte) : TxPhase :=
  match rest with
  | [] => .idle
  | [_] => .crc
  | _ :: _ :: _ =>
    match p with
    | .start => .seq
    | .seq => .msgid
    | .msgid => .len
    | _ => .payload

/-- The call of `TX.RAW` (R166): no register but `tx_phase` is written; an empty byte string is written at once. -/
def rawCall (c : ChanId) (a : Agent) (frame : List Byte) (s : State) : Answer :=
  s.onTransport a c fun ch =>
    let s' := (s.setChan c
      { ch with
        txPhase := if frame.isEmpty then .idle else .start
        txJob := if frame.isEmpty then .none else .raw a frame }).resume a .accepted
    if frame.isEmpty then .next (s'.ret a .txOk) else .next s'

/-- `TxReady(c)` for a pending `TX.RAW` (R166). -/
def rawReady (c : ChanId) (s : State) : Answer :=
  s.onChan c fun ch =>
    match ch.txJob with
    | .raw a (b :: rest) =>
      let s' := (s.setChan c
        { ch with
          txPhase := rawPhase ch.txPhase rest
          txJob := if rest.isEmpty then .none else .raw a rest }).emit c b
      if rest.isEmpty then .next (s'.ret a .txOk) else .next s'
    | _ => .next s

/-- `TxTimeout(c)` or `ChReset(c)` while a write of `TX.RAW` is pending (R164). -/
def rawAbort (c : ChanId) (s : State) : Answer :=
  s.onChan c fun ch =>
    match ch.txJob with
    | .raw a _ => .next (s.raise (.txFail c a))
    | _ => .next s

/-- `TX.RAW` (R164, R166). -/
def execTxRaw (c : ChanId) (x : RawInput) (s : State) : Answer :=
  match x with
  | .call a frame => rawCall c a frame s
  | .ready => rawReady c s
  | .timeout => rawAbort c s
  | .chReset => rawAbort c s

end Sys2Proof.Machine
end

