-- ==== Sys2Proof/Machine/Env.lean ====
section
/-! DEFINITION. Family ENV: the envelope codec's operations (spec/43_envelope_codec.md), and the ten key rows, each with
the action the dispatch table gives its variant at the worker (spec/45_session_worker.md R227, R228; log entry 20). -/

namespace Sys2Proof.Machine

/-- `ENV.ENCODE` (R176): the unknown tag is tested before the length; a failure writes nothing. -/
def execEnvEncode (a : Agent) (c : ChanId) (t : Nat) (body : List Byte) (s : State) : Answer :=
  s.onTransport a c fun ch =>
    match variantOf s.config t with
    | none => .next (s.raise (.encFail a .unknownTag))
    | some _ =>
      let p := envelope t body
      if lenMax < p.length then .next (s.raise (.encFail a .tooLong))
      else
        .next ((s.setChan c
          { ch with
            txBuf := Memory.writeN ch.txBuf 0 p
            txLen := BitVec.ofNat 8 p.length }).ret a .encOk)

/-- The result of pass 1 (R178, R270). -/
def discriminateResult (k : Config) (payload : List Byte) : Result :=
  match discriminate k payload with
  | some (v, off, w) => .found v off w
  | none => .noMatch

/-- `ENV.DISCRIMINATE` (R178): no state is written, no signal is ever raised. The listing alone; in a run the dispatcher
performs pass 1, in the step of `SES.DISPATCH` (R183, R226, log entry 13). -/
def execEnvDiscriminate (payload : List Byte) (s : State) : Answer :=
  .next (s.ret .driver (discriminateResult s.config payload))

/-- `ENV.BODY` (R180). The listing alone; in a run the dispatcher performs pass 2, in the step of the variant's row, with
its result for the worker (R228, log entry 13). -/
def execEnvBody (v : Variant) (payload : List Byte) (s : State) : Answer :=
  .next
    (match decodeBody s.config v payload with
     | some x => s.ret .driver (.bodyOk v x)
     | none => s.raise (.bodyFail .driver))

/-- The worker's dispatch step is over: the next iteration begins (R226). -/
def Chan.endDispatch (ch : Chan) : Chan := { ch with sesPhase := .checkTerm, ctl := .run }

/-- Dropped silently (R227): no signal, no reply; pass 2 is not run. -/
def dropSilently (c : ChanId) (s : State) : Answer :=
  s.onChan c fun ch => .next (s.setChan c ch.endDispatch)

/-- Pass 2 at the worker (R180, R228), on the payload in `rx_buf`; `w` is the matched key's wire type, which pass 2
requires to be 2. -/
def workerBody (k : Config) (v : Variant) (w : BitVec 3) (ch : Chan) : Option BodyVal :=
  if w = lengthDelimited then decodeBody k v ch.rxPayload else none

/-- `BODY_FAIL` at the worker (R227, R276): signalled, dropped, no handler called. -/
def dropBadBody (c : ChanId) (s : State) : State :=
  (s.raise (.bodyFail (.worker c))).updChan c Chan.endDispatch

/-- Pass 2 and the call of the handler (R227, R228): on `BODY_OK(x)` `Dispatch(c, v, x)`, and the worker waits for
`HandlerDone(c)`. -/
def routeToHandler (v : Variant) (c : ChanId) (w : BitVec 3) (s : State) : Answer :=
  s.onChan c fun ch =>
    .next
      (match workerBody s.config v w ch with
       | some x =>
         ((s.ret (.worker c) (.bodyOk v x)).output (.dispatch c v x)).updChan c
           fun ch => { ch with ctl := .handler (.dispatch v) }
       | none => dropBadBody c s)

/-- Pass 2 with its value discarded (R227, LogRequest): no handler is called; a bad body signals as usual. -/
def decodeAndDiscard (v : Variant) (c : ChanId) (w : BitVec 3) (s : State) : Answer :=
  s.onChan c fun ch =>
    .next
      (match workerBody s.config v w ch with
       | some x => (s.ret (.worker c) (.bodyOk v x)).updChan c Chan.endDispatch
       | none => dropBadBody c s)

/-- `ENV.Status` (R98, R227): outbound only; received it is dropped silently. -/
def execEnvStatus (c : ChanId) (_w : BitVec 3) (s : State) : Answer := dropSilently c s

/-- `ENV.StatusText` (R98, R227): outbound only; received it is dropped silently. -/
def execEnvStatusText (c : ChanId) (_w : BitVec 3) (s : State) : Answer := dropSilently c s

/-- `ENV.TimeReference` (R98, R227). -/
def execEnvTimeReference (c : ChanId) (w : BitVec 3) (s : State) : Answer := routeToHandler .timeReference c w s

/-- `ENV.Command` (R98, R227). -/
def execEnvCommand (c : ChanId) (w : BitVec 3) (s : State) : Answer := routeToHandler .command c w s

/-- `ENV.ParamRequest` (R98, R227). -/
def execEnvParamRequest (c : ChanId) (w : BitVec 3) (s : State) : Answer := routeToHandler .paramRequest c w s

/-- `ENV.ParamSet` (R98, R227). -/
def execEnvParamSet (c : ChanId) (w : BitVec 3) (s : State) : Answer := routeToHandler .paramSet c w s

/-- `ENV.ParamValue` (R98, R227): outbound only; received it is dropped silently. -/
def execEnvParamValue (c : ChanId) (_w : BitVec 3) (s : State) : Answer := dropSilently c s

/-- `ENV.LogRequest` (R98, R227, R251): decoded, not handled. -/
def execEnvLogRequest (c : ChanId) (w : BitVec 3) (s : State) : Answer := decodeAndDiscard .logRequest c w s

/-- `ENV.MemoryDumpRequest` (R98, R184, R227): gated by `cfg.dbg_memdump` before pass 2. -/
def execEnvMemoryDumpRequest (c : ChanId) (w : BitVec 3) (s : State) : Answer :=
  if s.cfg.dbgMemdump then routeToHandler .memoryDumpRequest c w s else dropSilently c s

/-- `ENV.MemoryDumpPage` (R98, R227): outbound only; received it is dropped silently. -/
def execEnvMemoryDumpPage (c : ChanId) (_w : BitVec 3) (s : State) : Answer := dropSilently c s

end Sys2Proof.Machine
end

