-- ==== Sys2Proof/Machine/Frame.lean ====
section
/-! DEFINITION. The row FRAME (spec/30_encoding.md R90, R113): a wire frame presented on a channel. -/

namespace Sys2Proof.Machine

/-- `FRAME` on channel `c` (R61, R90, R112): the peer's frame is put on `RXS(c)`, first byte first, behind what the
device already holds; the receiver takes its bytes one `RxByte` at a time (log entry 19). The CRC byte is the peer's: it
need not match. -/
def execFrame (c : ChanId) (seq msgid : Byte) (payload : List Byte) (crc : Byte) (s : State) : Answer :=
  s.onChan c fun ch =>
    .next (s.setChan c { ch with rxs := ch.rxs ++ wireFrame s.config.start seq msgid payload crc })

end Sys2Proof.Machine
end

