-- ==== Sys2Proof/Machine/Lock.lean ====
section
/-! DEFINITION. Family LOCK (spec/20_memory.md R75): the block's only synchronising operations. -/

namespace Sys2Proof.Machine

/-- `LOCK.ACQ(m)` by `a` (R75): takes a free lock; otherwise `a` has no step and waits (log entry 12). R211's
one lock for each agent is `State.lockInv`. No step runs the operation for the driver, which no rule names (R286); the
listing for it, which would let it hold several locks, is a DESIGN CHOICE (log entry 13). -/
def execLockAcq (a : Agent) (m : MediumId) (s : State) : Answer :=
  match s.locks[m]? with
  | none => .fault (.noSuchMedium m)
  | some .free => .next ((s.setLock m (.held a)).resume a .acquired)
  | some (.held _) => .next s

/-- `LOCK.REL(m)` by the holder (R75), after its send has returned (R165). -/
def execLockRel (a : Agent) (m : MediumId) (s : State) : Answer :=
  match s.locks[m]? with
  | none => .fault (.noSuchMedium m)
  | some l =>
    if l = .held a then
      if s.writePending m then .refused (.sendPending m)
      else .next ((s.setLock m .free).resume a .released)
    else .refused (.notLockHolder a m)

end Sys2Proof.Machine
end

