-- ==== Sys2Proof/Machine/Reg.lean ====
section
/-! DEFINITION. Family REG (spec/44_registry_broadcast.md): the instance registry and the broadcast. -/

namespace Sys2Proof.Machine

/-- `REG.CLAIM` (R201), the atomic test-and-set of slot `i`: an empty slot is claimed, a live one sends the worker on to
the next, and after the last one the start fails. -/
def execRegClaim (c : ChanId) (i : SlotId) (s : State) : Answer :=
  s.onChan c fun ch =>
    if ch.sesSlot = none then
      match s.reg[i]? with
      | some none =>
        .next (((s.setReg i (some c)).setChan c { ch with sesSlot := some i }).ret (.worker c) (.claimOk i))
      | some (some _) =>
        if i + 1 < s.reg.length then .next (s.resume (.worker c) .slotBusy)
        else .next (s.raise (.startFail c))
      | none => .next (s.raise (.startFail c))
    else .refused (.slotAlreadyHeld c)

/-- The effect of `REG.CLEAR` (R202): the worker clears its own slot, in one step. -/
def clearSlot (c : ChanId) (ch : Chan) (s : State) : State :=
  match ch.sesSlot with
  | some i => (s.setReg i none).setChan c { ch with sesSlot := none }
  | none => s

/-- `REG.CLEAR` (R202): a worker that never claimed does nothing. -/
def execRegClear (c : ChanId) (s : State) : Answer :=
  s.onChan c fun ch => .next (clearSlot c ch s)

/-- A new broadcast context (R42, R205): every slot still to visit, nothing framed, result `TX_OK`. -/
def newBcast (s : State) (caller : BcastCaller) (t : Nat) (body : List Byte) : Bcast where
  id     := s.nextBc
  caller := caller
  tag    := t
  body   := body
  rest   := List.range s.reg.length
  frame  := none
  result := .txOk
  stage  := .visit

/-- `BCAST.SEND` is called (R203): its context begins. -/
def State.beginBcast (s : State) (caller : BcastCaller) (t : Nat) (body : List Byte) : State :=
  { s with bcasts := s.bcasts ++ [newBcast s caller t body], nextBc := s.nextBc + 1 }

/-- The call of `BCAST.SEND`. A handler may call it while it runs and is not blocked in another command (D35); such a
call at another time is ignored (U20). -/
def bcastCall (caller : BcastCaller) (t : Nat) (body : List Byte) (s : State) : Answer :=
  match caller with
  | .driver => .next (s.beginBcast caller t body)
  | .handler c =>
    s.onChan c fun ch =>
      match ch.ctl with
      | .handler h =>
        .next ((s.setChan c { ch with ctl := .handlerBcast h s.nextBc }).beginBcast caller t body)
      | _ => .next s
  | .stop c =>
    s.onChan c fun ch =>
      .next ((s.setChan c { ch with ctl := .finalBcast s.nextBc }).beginBcast caller t body)

/-- The visit of slot `i` (R204, R205): the slot is read at this moment; an empty one is skipped, a live one's lock is
next. -/
def bcastVisit (k : BcastId) (i : SlotId) (s : State) : Answer :=
  match s.findBcast k with
  | none => .next s
  | some b =>
    if i ∈ b.rest then
      .next (s.updBcast k fun b =>
        { b with
          rest := b.rest.filter (· != i)
          stage :=
            match s.reg[i]? with
            | some (some c) => .acq c
            | _ => .visit })
    else .next s

/-- With `BCAST_REFRAME` (R209): the payload encoded for the first session is copied into the next session's send
buffer. -/
def bcastCopy (k : BcastId) (s : State) : Answer :=
  match s.findBcast k with
  | none => .next s
  | some b =>
    match b.stage with
    | .copy c =>
      s.onTransport (.bcast k) c fun ch =>
        let p := ((b.frame.getD []).drop 4).dropLast
        .next ((s.setChan c
          { ch with
            txBuf := Memory.writeN ch.txBuf 0 p
            txLen := BitVec.ofNat 8 p.length }).updBcast k fun b => { b with stage := .send c })
    | _ => .next s

/-- The return of `BCAST.SEND` once every slot has been visited (R206, R208). -/
def bcastFinish (k : BcastId) (s : State) : Answer :=
  match s.findBcast k with
  | none => .next s
  | some b => if b.rest = [] ∧ b.stage = .visit then .next (s.bcastReturn b b.result) else .next s

/-- `BCAST.SEND` (R203 to R209). Its locks, encode and sends are the operations of those rows, called by the context. -/
def execBcastSend (x : BcastInput) (s : State) : Answer :=
  match x with
  | .call caller t body => bcastCall caller t body s
  | .visit k i => bcastVisit k i s
  | .copy k => bcastCopy k s
  | .finish k => bcastFinish k s

end Sys2Proof.Machine
end

