-- ==== Sys2Proof/Machine/Rx.lean ====
section
/-! DEFINITION. Family RX (spec/41_rx_transport.md): the receiver's steps, one per event, and the loop `RX.RECEIVE`
that calls them. -/

namespace Sys2Proof.Machine

/-- A receiver step without a result: the pending `receive` goes back to the top of its loop (R142). -/
def Chan.rxContinue (ch : Chan) : Chan :=
  match ch.ctl with
  | .recvRead => { ch with ctl := .recvTop }
  | _ => ch

/-- The receiver state after a "no data" result (R137): kept, or resynchronised if `IDLE_KEEPS_STATE` is false. -/
def idleState (k : Config) (st : RxState) : RxState := if k.idleKeepsState then st else .waitStart

/-- The shared effect of an idle timeout and an idle channel reset (R137, R139, R272): no signal. -/
def rxNoData (c : ChanId) (s : State) : Answer :=
  s.onChan c fun ch =>
    .next ((s.setChan c { ch with rxState := idleState s.config ch.rxState }).ret (.worker c) .rxNoData)

/-- The shared effect of a timeout and a channel reset in `PAYLOAD` (R138, R140, R273). -/
def rxMidframe (c : ChanId) (s : State) : Answer :=
  s.onChan c fun _ => .next (s.raise (.rxFail c .midframe))

/-- `RX.START` (R131): the accumulator starts; the marker is not folded. -/
def execRxStart (c : ChanId) (s : State) : Answer :=
  s.onChan c fun ch =>
    .next (s.setChan c { ch with rxCrc := s.config.crcInit, rxState := .seq }.rxContinue)

/-- `RX.DISCARD` (R141): no register of the receiver is written, whatever the byte. -/
def execRxDiscard (c : ChanId) (_b : Byte) (s : State) : Answer :=
  s.onChan c fun ch => .next (s.setChan c ch.rxContinue)

/-- `RX.SEQ` (R132). -/
def execRxSeq (c : ChanId) (b : Byte) (s : State) : Answer :=
  s.onChan c fun ch =>
    .next (s.setChan c
      { ch with rxSeq := b, rxCrc := crc8Update s.config ch.rxCrc b, rxState := .msgid }.rxContinue)

/-- `RX.MSGID` (R133). -/
def execRxMsgid (c : ChanId) (b : Byte) (s : State) : Answer :=
  s.onChan c fun ch =>
    .next (s.setChan c
      { ch with rxMsgid := b, rxCrc := crc8Update s.config ch.rxCrc b, rxState := .len }.rxContinue)

/-- `RX.LEN` (R134): a zero length goes to `CRC`, any other to `PAYLOAD`. -/
def execRxLen (c : ChanId) (b : Byte) (s : State) : Answer :=
  s.onChan c fun ch =>
    .next (s.setChan c
      { ch with
        rxLen := b
        rxCrc := crc8Update s.config ch.rxCrc b
        rxCnt := 0
        rxState := if b = 0 then .crc else .payload }.rxContinue)

/-- `RX.PAYLOAD` (R135): one byte of the bulk read. -/
def execRxPayload (c : ChanId) (b : Byte) (s : State) : Answer :=
  s.onChan c fun ch =>
    if ch.rxCnt < bufSize then
      .next (s.setChan c
        { ch with
          rxBuf := Memory.write ch.rxBuf ch.rxCnt b
          rxCrc := crc8Update s.config ch.rxCrc b
          rxCnt := ch.rxCnt + 1
          rxState := if ch.rxCnt + 1 = ch.rxLen.toNat then .crc else ch.rxState }.rxContinue)
    else .fault (.noSuchIndex c ch.rxCnt)

/-- `RX.CRC` (R136): the computed CRC against the received byte; either outcome goes to `WAIT_START`. -/
def execRxCrc (c : ChanId) (b : Byte) (s : State) : Answer :=
  s.onChan c fun ch =>
    if b = crcFinal s.config ch.rxCrc then
      .next (((s.setChan c { ch with rxState := .waitStart }).signal .normal).ret (.worker c)
        (.rxOk ch.rxSeq ch.rxMsgid ch.rxLen ch.rxPayload))
    else .next (s.raise (.rxFail c .crc))

/-- `RX.IDLE_TMO` (R137). -/
def execRxIdleTmo (c : ChanId) (s : State) : Answer := rxNoData c s

/-- `RX.BULK_TMO` (R138). -/
def execRxBulkTmo (c : ChanId) (s : State) : Answer := rxMidframe c s

/-- `RX.IDLE_RST` (R139). -/
def execRxIdleRst (c : ChanId) (s : State) : Answer := rxNoData c s

/-- `RX.BULK_RST` (R140). -/
def execRxBulkRst (c : ChanId) (s : State) : Answer := rxMidframe c s

/-- `RX.RECEIVE` (R142), the top of the loop: with the termination flag seen outside `PAYLOAD` it returns "no data" and
leaves the receiver as it is; otherwise it waits for one event. -/
def execRxReceive (c : ChanId) (s : State) : Answer :=
  s.onChan c fun ch =>
    if ch.sesTermReq && ch.rxState != .payload then .next (s.ret (.worker c) .rxNoData)
    else .next (s.setChan c { ch with ctl := .recvRead })

end Sys2Proof.Machine
end

