-- ==== Sys2Proof/Machine/Ses.lean ====
section
/-! DEFINITION. Family SES (spec/45_session_worker.md): the worker and the dispatcher. -/

namespace Sys2Proof.Machine

/-- `Start(c)` (R221): ignored unless the worker is stopped (and not already starting); `LOCK.ACQ(medium(c))` is next. -/
def startEvent (c : ChanId) (s : State) : Answer :=
  s.onChan c fun ch =>
    if ch.sesPhase = .stopped ∧ ch.ctl = .run then .next (s.setChan c { ch with ctl := .startAcq })
    else .next s

/-- `SES.START` under the lock (R221): a new session has a new transport; `LOCK.REL` is next. -/
def startInit (c : ChanId) (s : State) : Answer :=
  s.onChan c fun ch =>
    .next (s.setChan c
      { ch with rxState := .waitStart, txPhase := .idle, txSeq := 0x00, ctl := .startRel })

/-- `SES.START` after the lock (R221): the termination flag is cleared; `REG.CLAIM` from slot 0 is next. -/
def startArm (c : ChanId) (s : State) : Answer :=
  s.onChan c fun ch => .next (s.setChan c { ch with sesTermReq := false, ctl := .startClaim 0 })

/-- `SES.START` with a slot (R221): the heartbeat timer starts and the loop is entered. -/
def startEnter (c : ChanId) (s : State) : Answer :=
  s.onChan c fun ch =>
    .next (s.setChan c { ch with sesLastStatus := s.now, sesPhase := .checkTerm, ctl := .run })

/-- `SES.START` (R221); its lock and claim are the operations of those rows, called by the worker. -/
def execSesStart (c : ChanId) (x : StartInput) (s : State) : Answer :=
  match x with
  | .event => startEvent c s
  | .init => startInit c s
  | .arm => startArm c s
  | .enter => startEnter c s

/-- `SES.CHECK_TERM` (R222). -/
def execSesCheckTerm (c : ChanId) (s : State) : Answer :=
  s.onChan c fun ch =>
    .next (s.setChan c { ch with sesPhase := if ch.sesTermReq then .deregister else .checkStatus })

/-- The time comparison of R223: strictly more than the period has passed. -/
def statusDue (s : State) (ch : Chan) : Bool :=
  decide (s.cfg.statusPeriod.toNat < (s.now - ch.sesLastStatus).toNat)

/-- `StatusCall(c)` (R223): the Status handler runs and the worker waits for `HandlerDone(c)`. -/
def statusCall (c : ChanId) (ch : Chan) (s : State) : State :=
  (s.setChan c { ch with ctl := .handler .status }).output (.statusCall c)

/-- `SES.STATUS` (R223): the comparison, the event `StatusDue(c)`, and the timer's reset once the handler has
returned. -/
def execSesStatus (c : ChanId) (x : StatusInput) (s : State) : Answer :=
  s.onChan c fun ch =>
    match x with
    | .compare =>
      if statusDue s ch then .next (statusCall c ch s)
      else .next (s.setChan c { ch with sesPhase := .receive })
    | .due => .next (statusCall c ch s)
    | .handlerDone => .next (s.setChan c { ch with sesLastStatus := s.now, sesPhase := .receive, ctl := .run })

/-- The phase after a receive (R224). -/
def phaseAfterReceive (r : Result) : SesPhase :=
  match r with
  | .rxOk _ _ _ _ => .dispatch
  | _ => .checkTerm

/-- `SES.RECEIVE` (R224): calls `receive(c)`, and goes on by its result; in between it waits. -/
def execSesReceive (c : ChanId) (s : State) : Answer :=
  s.onChan c fun ch =>
    match ch.ctl with
    | .run => .next (s.setChan c { ch with ctl := .recvTop })
    | .recvDone r => .next (s.setChan c { ch with sesPhase := phaseAfterReceive r, ctl := .run })
    | _ => .next s

/-- `SES.DISPATCH` (R226): pass 1 over the received payload; no match is dropped silently (R227), a match goes on to
its row. After the handler has returned, the next iteration. DESIGN CHOICE (log entry 24): pass 1's result, which the
dispatcher itself takes, is no output here, unlike the results of pass 2, of encodes and of sends, which are listed under
the worker's name. -/
def execSesDispatch (c : ChanId) (x : DispatchInput) (s : State) : Answer :=
  s.onChan c fun ch =>
    match x with
    | .pass1 =>
      match discriminate s.config ch.rxPayload with
      | some (v, off, w) => .next (s.setChan c { ch with ctl := .matched v off w })
      | none => .next (s.setChan c ch.endDispatch)
    | .handlerDone => .next (s.setChan c ch.endDispatch)

/-- `SES.SEND` (R229): a `Reply` is taken on while a handler of `c` runs and is not blocked in another command, and
ignored otherwise (U20). `LOCK.ACQ`, `ENV.ENCODE`, `TX.SEND` and `LOCK.REL` follow, each an operation of its row. -/
def execSesSend (c : ChanId) (t : Nat) (body : List Byte) (s : State) : Answer :=
  s.onChan c fun ch =>
    match ch.ctl with
    | .handler h => .next (s.setChan c { ch with ctl := .replyAcq h t body })
    | _ => .next s

/-- `FINAL_DIAG(c)` (R231). -/
def finalDiag (k : Config) (c : ChanId) : Nat × List Byte := k.finalDiag.getD c (Config.openFinalDiag c)

/-- `SES.STOP` (R230): in `DEREGISTER` the slot is cleared, in `FINAL_BCAST` the final diagnostic is broadcast; its
return stops the worker (`State.bcastReturn`). -/
def execSesStop (c : ChanId) (s : State) : Answer :=
  s.onChan c fun ch =>
    match ch.sesPhase with
    | .deregister => .next ((clearSlot c ch s).updChan c fun ch => { ch with sesPhase := .finalBcast })
    | .finalBcast => bcastCall (.stop c) (finalDiag s.config c).1 (finalDiag s.config c).2 s
    | _ => .next s

end Sys2Proof.Machine
end

