-- ==== Sys2Proof/Machine/Dispatch.lean ====
section
/-! DEFINITION. One arm per operation, each a call of its meaning. -/

namespace Sys2Proof.Machine

def exec (i : Instr) (s : State) : Host.Outcome State Fault Refusal :=
  match i with
  | .crc8Update running byte => Sys2Proof.Machine.execCrc8Update running byte s
  | .crc8Block running buf => Sys2Proof.Machine.execCrc8Block running buf s
  | .rxStart c => Sys2Proof.Machine.execRxStart c s
  | .rxDiscard c b => Sys2Proof.Machine.execRxDiscard c b s
  | .rxSeq c b => Sys2Proof.Machine.execRxSeq c b s
  | .rxMsgid c b => Sys2Proof.Machine.execRxMsgid c b s
  | .rxLen c b => Sys2Proof.Machine.execRxLen c b s
  | .rxPayload c b => Sys2Proof.Machine.execRxPayload c b s
  | .rxCrc c b => Sys2Proof.Machine.execRxCrc c b s
  | .rxIdleTmo c => Sys2Proof.Machine.execRxIdleTmo c s
  | .rxBulkTmo c => Sys2Proof.Machine.execRxBulkTmo c s
  | .rxIdleRst c => Sys2Proof.Machine.execRxIdleRst c s
  | .rxBulkRst c => Sys2Proof.Machine.execRxBulkRst c s
  | .rxReceive c => Sys2Proof.Machine.execRxReceive c s
  | .txSend c x => Sys2Proof.Machine.execTxSend c x s
  | .txRaw c x => Sys2Proof.Machine.execTxRaw c x s
  | .lockAcq a m => Sys2Proof.Machine.execLockAcq a m s
  | .lockRel a m => Sys2Proof.Machine.execLockRel a m s
  | .envEncode a c t body => Sys2Proof.Machine.execEnvEncode a c t body s
  | .envDiscriminate payload => Sys2Proof.Machine.execEnvDiscriminate payload s
  | .envBody v payload => Sys2Proof.Machine.execEnvBody v payload s
  | .regClaim c j => Sys2Proof.Machine.execRegClaim c j s
  | .regClear c => Sys2Proof.Machine.execRegClear c s
  | .bcastSend x => Sys2Proof.Machine.execBcastSend x s
  | .sesStart c x => Sys2Proof.Machine.execSesStart c x s
  | .sesCheckTerm c => Sys2Proof.Machine.execSesCheckTerm c s
  | .sesStatus c x => Sys2Proof.Machine.execSesStatus c x s
  | .sesReceive c => Sys2Proof.Machine.execSesReceive c s
  | .sesDispatch c x => Sys2Proof.Machine.execSesDispatch c x s
  | .sesSend c t body => Sys2Proof.Machine.execSesSend c t body s
  | .sesStop c => Sys2Proof.Machine.execSesStop c s
  | .frame c seq msgid payload crc => Sys2Proof.Machine.execFrame c seq msgid payload crc s
  | .envStatus c w => Sys2Proof.Machine.execEnvStatus c w s
  | .envStatusText c w => Sys2Proof.Machine.execEnvStatusText c w s
  | .envTimeReference c w => Sys2Proof.Machine.execEnvTimeReference c w s
  | .envCommand c w => Sys2Proof.Machine.execEnvCommand c w s
  | .envParamRequest c w => Sys2Proof.Machine.execEnvParamRequest c w s
  | .envParamSet c w => Sys2Proof.Machine.execEnvParamSet c w s
  | .envParamValue c w => Sys2Proof.Machine.execEnvParamValue c w s
  | .envLogRequest c w => Sys2Proof.Machine.execEnvLogRequest c w s
  | .envMemoryDumpRequest c w => Sys2Proof.Machine.execEnvMemoryDumpRequest c w s
  | .envMemoryDumpPage c w => Sys2Proof.Machine.execEnvMemoryDumpPage c w s

end Sys2Proof.Machine
end

