-- ==== Sys2Proof/Machine/Select.lean ====
section
/-! DEFINITION. Which operation an agent takes next, and what a stimulus does (spec/30_encoding.md R104, R110, R111;
spec/60_exceptions.md R281, R282, R287): the selection of the opcode table's "selected by" column. Machine/Step.lean
runs the operation that is selected here. -/

namespace Sys2Proof.Machine

/-! ## The worker and the broadcast -/

/-- The next operation of a worker between composite operations (R220, R110): its phase selects it. A stopped worker
has none. In `DEREGISTER` the slot is cleared first (R230). -/
def phaseOp (c : ChanId) (ch : Chan) : Option Instr :=
  match ch.sesPhase with
  | .stopped => none
  | .checkTerm => some (.sesCheckTerm c)
  | .checkStatus => some (.sesStatus c .compare)
  | .receive => some (.sesReceive c)
  | .dispatch => some (.sesDispatch c .pass1)
  | .deregister => if ch.sesSlot.isSome then some (.regClear c) else some (.sesStop c)
  | .finalBcast => some (.sesStop c)

/-- The next operation of the worker of `c`, where its registers are `ch` (R142, R221, R226, R229, R230); none while it
waits for an event. In a receive the flag is tested at the top of the loop only, once per outer iteration: a pending read
waits for its event, whatever the flag (R142). -/
def workerOp (s : State) (c : ChanId) (ch : Chan) : Option Instr :=
  match ch.ctl with
  | .run => phaseOp c ch
  | .startAcq => some (.lockAcq (.worker c) (s.mediumOf c))
  | .startInit => some (.sesStart c .init)
  | .startRel => some (.lockRel (.worker c) (s.mediumOf c))
  | .startArm => some (.sesStart c .arm)
  | .startClaim i => some (.regClaim c i)
  | .startEnter => some (.sesStart c .enter)
  | .recvTop => some (.rxReceive c)
  | .recvRead => none
  | .recvDone _ => some (.sesReceive c)
  | .matched v _ w => some (Instr.ofVariant v c w)
  | .handler _ => none
  | .replyAcq _ _ _ => some (.lockAcq (.worker c) (s.mediumOf c))
  | .replyEncode _ t body => some (.envEncode (.worker c) c t body)
  | .replySend _ => some (.txSend c (.call (.worker c) s.config.msgidEnvelope))
  | .replyWait _ => none
  | .replyRel _ _ => some (.lockRel (.worker c) (s.mediumOf c))
  | .handlerBcast _ _ => none
  | .finalBcast _ => none

/-- The next operation of a running broadcast (R204 to R206, R209); `i` is the slot it visits next, if it is about to
visit one, and the choice is open among those not yet visited. None while it waits for its send. -/
def bcastOp (s : State) (b : Bcast) (i : SlotId) : Option Instr :=
  match b.stage with
  | .visit =>
    if b.rest.isEmpty then some (.bcastSend (.finish b.id))
    else if i ∈ b.rest then some (.bcastSend (.visit b.id i)) else none
  | .acq c => some (.lockAcq (.bcast b.id) (s.mediumOf c))
  | .encode c => some (.envEncode (.bcast b.id) c b.tag b.body)
  | .copy _ => some (.bcastSend (.copy b.id))
  | .send c => some (.txSend c (.call (.bcast b.id) s.config.msgidEnvelope))
  | .raw c => some (.txRaw c (.call (.bcast b.id) (b.frame.getD [])))
  | .wait _ => none
  | .rel c _ => some (.lockRel (.bcast b.id) (s.mediumOf c))

/-! ## Stimuli -/

/-- What a step has to do: it has its answer, or it runs an operation in a state. -/
inductive Plan where
  | answer (a : Answer)
  | run (i : Instr) (s : State)

/-- Runs an operation, if there is one; otherwise nothing happens. -/
def Plan.ofOption (s : State) (o : Option Instr) : Plan :=
  match o with
  | some i => .run i s
  | none => .answer (.next s)

/-- Does `f` with the registers of channel `c`; a channel that does not exist faults (R20). -/
def Plan.onChan (s : State) (c : ChanId) (f : Chan → Plan) : Plan :=
  match s.chans[c]? with
  | some ch => f ch
  | none => .answer (.fault (.noSuchChannel c))

/-- One cycle of the receiver's event inputs of channel `c`. `arrive` are the bytes that arrive at the device in it,
`offer` says whether the device offers its oldest byte, `reset` and `timeout` are the two other events.
While the receiver has a read pending, the event of the highest priority (R282) selects the operation (R111) and an
offered byte is consumed (R69). Outside `RECEIVE` the device keeps its bytes, and a timeout or a reset has no step
(R287). In `RECEIVE`, before the read of the loop has begun, the worker takes its own next step and the stimulus `again`
stays the next one (log entry 10). -/
def rxInput (s : State) (c : ChanId) (again : Stim) (arrive : List Byte) (offer reset timeout : Bool) : Plan :=
  Plan.onChan s c fun ch =>
    let held := ch.rxs ++ arrive
    if ch.sesPhase = .receive then
      if ch.ctl = .recvRead then
        let offered := if offer then held.head? else none
        let rxs := if offer then held.tail else held
        Plan.ofOption (s.setChan c { ch with rxs := rxs })
          ((arbitrateRx reset offered timeout).map fun e => decodeRx s.config.start ch.rxState c e)
      else Plan.ofOption { s with script := again :: s.script } (workerOp s c ch)
    else .answer (.next (s.setChan c { ch with rxs := held }))

/-- An event for the sender of channel `c`: it reaches the pending write, and without one it has no step (R281). -/
def txInput (s : State) (c : ChanId) (send : SendInput) (raw : RawInput) : Plan :=
  Plan.onChan s c fun ch =>
    match ch.txJob with
    | .none => .answer (.next s)
    | .send _ => .run (.txSend c send) s
    | .raw _ _ => .run (.txRaw c raw) s

/-- `StatusDue(c)` (R223): it has a step in `CHECK_STATUS` only. -/
def statusDueInput (s : State) (c : ChanId) : Plan :=
  Plan.onChan s c fun ch =>
    if ch.sesPhase = .checkStatus ∧ ch.ctl = .run then .run (.sesStatus c .due) s else .answer (.next s)

/-- `HandlerDone(c)` (R223, R227): it has a step while a handler runs that is not blocked in a command. -/
def handlerDoneInput (s : State) (c : ChanId) : Plan :=
  Plan.onChan s c fun ch =>
    match ch.ctl with
    | .handler .status => .run (.sesStatus c .handlerDone) s
    | .handler (.dispatch _) => .run (.sesDispatch c .handlerDone) s
    | _ => .answer (.next s)

/-- `Broadcast(t, B)` (R203): the command port of R106 is the handlers'; a stopping worker broadcasts by itself (R230), and
nobody else may (R286, D35): such a call is ignored, as a command outside a handler's window is (U20). -/
def broadcastInput (s : State) (caller : BcastCaller) (t : Nat) (body : List Byte) : Plan :=
  match caller with
  | .driver => .answer (.next s)
  | .handler c => Plan.onChan s c fun _ => .run (.bcastSend (.call (.handler c) t body)) s
  | .stop _ => .answer (.next s)

/-- `Terminate(c)` (R34, R281): latched. -/
def terminateInput (s : State) (c : ChanId) : Answer :=
  s.onChan c fun ch => .next (s.setChan c { ch with sesTermReq := true })

/-- A channel after `rst` (R44, R311): the bytes its device holds stay. -/
def Chan.afterRst (ch : Chan) : Chan := { Chan.reset with rxs := ch.rxs }

/-- `rst` (R310, R311): every register takes its reset value, `cfg` is loaded, no event is consumed and no output is
produced. What stands outside the block stays: the channel devices, the clock, the medium selection, the outputs made
so far, the stimuli to come (log entry 23). -/
def rstInput (s : State) (inputs : CfgRegs) : Answer :=
  if inputs.legal s.config then
    .next
      { s with
        cfg    := inputs
        chans  := s.chans.map Chan.afterRst
        reg    := s.reg.map fun _ => none
        locks  := s.locks.map fun _ => .free
        bcasts := []
        nextBc := 0 }
  else .refused .illegalConfiguration

/-- The clock moves on (R293, U14): it never runs backwards. -/
def clockInput (s : State) (t : Time) : Answer :=
  if t < s.now then .refused .clockBackwards else .next { s with now := t }

/-- A change of medium selection (R39, R77): only while the locks of the old and the new medium are free. -/
def selectMediumInput (s : State) (c : ChanId) (m : MediumId) : Answer :=
  s.onChan c fun _ =>
    match s.locks[m]? with
    | none => .fault (.noSuchMedium m)
    | some l =>
      if l = .free ∧ s.locks[s.mediumOf c]? = some .free then .next { s with medium := s.medium.set c m }
      else .refused (.mediumInUse c)

/-- The step of an agent whose turn it is. -/
def workerTurn (s : State) (c : ChanId) : Plan :=
  Plan.onChan s c fun ch => Plan.ofOption s (workerOp s c ch)

/-- The step of broadcast `k`; one that does not run has none. -/
def bcastTurn (s : State) (k : BcastId) (i : SlotId) : Plan :=
  match s.findBcast k with
  | some b => Plan.ofOption s (bcastOp s b i)
  | none => .answer (.next s)

/-- What a stimulus other than an operation word does in a state from whose script it has been taken. -/
def present (s : State) (σ : Stim) : Plan :=
  match σ with
  | .rxByte c b => rxInput s c σ [b] true false false
  | .rxOffer c => rxInput s c σ [] true false false
  | .rxTimeout c => rxInput s c σ [] false false true
  | .chResetRx c => rxInput s c σ [] false true false
  | .chResetTx c => txInput s c .chReset .chReset
  | .txReady c => txInput s c .ready .ready
  | .txTimeout c => txInput s c .timeout .timeout
  | .start c => .run (.sesStart c .event) s
  | .terminate c => .answer (terminateInput s c)
  | .statusDue c => statusDueInput s c
  | .reply c t body => .run (.sesSend c t body) s
  | .broadcast caller t body => broadcastInput s caller t body
  | .handlerDone c => handlerDoneInput s c
  | .worker c => workerTurn s c
  | .bcast k i => bcastTurn s k i
  | .rxCycle c reset byte timeout => rxInput s c σ byte.toList byte.isSome reset timeout
  | .txCycle c reset ready timeout =>
    match arbitrateTx c reset ready timeout with
    | some (.chResetTx c) => txInput s c .chReset .chReset
    | some (.txReady c) => txInput s c .ready .ready
    | some (.txTimeout c) => txInput s c .timeout .timeout
    | _ => .answer (.next s)
  | .rst inputs => .answer (rstInput s inputs)
  | .clock t => .answer (clockInput s t)
  | .selectMedium c m => .answer (selectMediumInput s c m)
  | .op _ => .answer (.next s)

/-! ## Operation words -/

/-- What presents an operation to the block (R110): the stimulus that selects it; nothing but the command itself, for a
frame of the environment and for the CRC, a function of its operands whose rules name no caller; or nothing at all, where
the rules keep an operation for an agent that performs it inside a step of its own, or the caller is outside the block. -/
inductive Trigger where
  | direct
  | stim (σ : Stim)
  | never
  deriving DecidableEq, Repr

/-- The trigger of an operation called by an agent: that agent's own step. The driver, which no rule names, has none
(R286). -/
def agentTrigger : Agent → Trigger
  | .driver => .never
  | .worker c => .stim (.worker c)
  | .bcast k => .stim (.bcast k 0)

/-- The trigger of a broadcast's call: a handler's command; a stopping worker calls in its own step, and the driver has no
call (R203, R286). -/
def callerTrigger (caller : BcastCaller) (t : Nat) (body : List Byte) : Trigger :=
  match caller with
  | .driver => .never
  | .handler c => .stim (.broadcast (.handler c) t body)
  | .stop _ => .never

/-- What presents an operation (R110); `start` is the parameter `START`. The two decode passes are the dispatcher's (R183,
R226, R228, D36): a worker performs pass 1 in the step of `SES.DISPATCH` and pass 2 in that of its key row, and a word of
either has no step (R286, log entry 13). -/
def triggerOf (start : Byte) (i : Instr) : Trigger :=
  match i with
  | .crc8Update _ _ => .direct
  | .crc8Block _ _ => .direct
  | .rxStart c => .stim (.rxByte c start)
  | .rxDiscard c b => .stim (.rxByte c b)
  | .rxSeq c b => .stim (.rxByte c b)
  | .rxMsgid c b => .stim (.rxByte c b)
  | .rxLen c b => .stim (.rxByte c b)
  | .rxPayload c b => .stim (.rxByte c b)
  | .rxCrc c b => .stim (.rxByte c b)
  | .rxIdleTmo c => .stim (.rxTimeout c)
  | .rxBulkTmo c => .stim (.rxTimeout c)
  | .rxIdleRst c => .stim (.chResetRx c)
  | .rxBulkRst c => .stim (.chResetRx c)
  | .rxReceive c => .stim (.worker c)
  | .txSend _ (.call a _) => agentTrigger a
  | .txSend c .ready => .stim (.txReady c)
  | .txSend c .timeout => .stim (.txTimeout c)
  | .txSend c .chReset => .stim (.chResetTx c)
  | .txRaw _ (.call a _) => agentTrigger a
  | .txRaw c .ready => .stim (.txReady c)
  | .txRaw c .timeout => .stim (.txTimeout c)
  | .txRaw c .chReset => .stim (.chResetTx c)
  | .lockAcq a _ => agentTrigger a
  | .lockRel a _ => agentTrigger a
  | .envEncode a _ _ _ => agentTrigger a
  | .envDiscriminate _ => .never
  | .envBody _ _ => .never
  | .regClaim c _ => .stim (.worker c)
  | .regClear c => .stim (.worker c)
  | .bcastSend (.call caller t body) => callerTrigger caller t body
  | .bcastSend (.visit k i) => .stim (.bcast k i)
  | .bcastSend (.copy k) => .stim (.bcast k 0)
  | .bcastSend (.finish k) => .stim (.bcast k 0)
  | .sesStart c .event => .stim (.start c)
  | .sesStart c .init => .stim (.worker c)
  | .sesStart c .arm => .stim (.worker c)
  | .sesStart c .enter => .stim (.worker c)
  | .sesCheckTerm c => .stim (.worker c)
  | .sesStatus c .compare => .stim (.worker c)
  | .sesStatus c .due => .stim (.statusDue c)
  | .sesStatus c .handlerDone => .stim (.handlerDone c)
  | .sesReceive c => .stim (.worker c)
  | .sesDispatch c .pass1 => .stim (.worker c)
  | .sesDispatch c .handlerDone => .stim (.handlerDone c)
  | .sesSend c t body => .stim (.reply c t body)
  | .sesStop c => .stim (.worker c)
  | .frame _ _ _ _ _ => .direct
  | .envStatus c _ => .stim (.worker c)
  | .envStatusText c _ => .stim (.worker c)
  | .envTimeReference c _ => .stim (.worker c)
  | .envCommand c _ => .stim (.worker c)
  | .envParamRequest c _ => .stim (.worker c)
  | .envParamSet c _ => .stim (.worker c)
  | .envParamValue c _ => .stim (.worker c)
  | .envLogRequest c _ => .stim (.worker c)
  | .envMemoryDumpRequest c _ => .stim (.worker c)
  | .envMemoryDumpPage c _ => .stim (.worker c)

/-- The state in which an operation runs if its selection holds (R110): the state itself for a frame and for the CRC,
the state its stimulus leaves if that stimulus selects exactly this operation. An operation of a named agent runs
as that agent's own step and for no other (R286), so a caller whose write is pending runs nothing meanwhile (R168). -/
def selected (s : State) (i : Instr) : Option State :=
  match triggerOf s.config.start i with
  | .direct => some s
  | .never => none
  | .stim σ =>
    match present s σ with
    | .run j s' => if j = i then some s' else none
    | .answer _ => none

/-- An operation word: it runs if its selection holds, and has no step otherwise (R281, R286); a word that is no
operation is refused. -/
def wordInput (s : State) (word : List Byte) : Plan :=
  match decodeWord s.config.start word with
  | .error e => .answer (.refused (.illegalWord e))
  | .ok i =>
    match selected s i with
    | some s' => .run i s'
    | none => .answer (.next s)

/-- What a stimulus does. -/
def State.plan (s : State) (σ : Stim) : Plan :=
  match σ with
  | .op word => wordInput s word
  | σ => present s σ

/-! ## Placing a word for the next step -/

/-- The machine about to take a byte on channel 0: its worker waits in `receive`, the receiver is in `WAIT_START`, the
device holds the byte and offers it. -/
def State.placeByte (s : State) (b : Byte) : State :=
  { (s.updChan 0 fun ch =>
      { ch with rxState := .waitStart, sesPhase := .receive, ctl := .recvRead, rxs := [b] }) with
    script := .rxOffer 0 :: s.script }

/-- The machine about to run the row of a variant's key on channel 0: the worker has received a payload that begins with
the bytes `bs`, and pass 1 has matched. -/
def State.placeKey (s : State) (bs : List Byte) (v : Variant) (w : BitVec 3) : State :=
  { (s.updChan 0 fun ch =>
      { ch with
        rxBuf := Memory.writeN ch.rxBuf 0 bs
        rxLen := BitVec.ofNat 8 bs.length
        sesPhase := .dispatch
        ctl := .matched v 1 w }) with
    script := .worker 0 :: s.script }

/-- The machine about to run a table word (log entry 3). -/
def State.placeWord (s : State) (nbits w : Nat) : State :=
  let bs := wordBytes ((nbits + 7) / 8) w
  match decodeTableWord nbits w with
  | none => { s with script := .op bs :: s.script }
  | some i =>
    match i, bs with
    | .rxStart _, b :: _ => s.placeByte b
    | .rxDiscard _ _, b :: _ => s.placeByte b
    | i, b :: bs =>
      match keyVariant b with
      | some v => s.placeKey (if bs.isEmpty then [b, 0] else b :: bs) v (keyWire b.toNat)
      | none => { s with script := .op (encode s.config.start i) :: s.script }
    | i, [] => { s with script := .op (encode s.config.start i) :: s.script }

end Sys2Proof.Machine
end

