-- ==== Sys2Proof/Machine/Step.lean ====
section
/-! DEFINITION. One step of the machine (spec/20_memory.md R72): the next stimulus of the script is presented, and the
operation it selects runs. -/

namespace Sys2Proof.Machine

/-- Carries out a plan. -/
def Plan.carryOut (p : Plan) : Host.Outcome State Fault Refusal :=
  match p with
  | .answer a => a
  | .run i s => exec i s

/-- One atomic step (R72). With no stimulus left the block is quiescent (R314). -/
def step (s : State) : Host.Outcome State Fault Refusal :=
  match s.script with
  | [] => .next s
  | σ :: rest => (State.plan { s with script := rest } σ).carryOut

/-- The machine with a table word placed so that the next step runs it. -/
def State.withFetchWord (s : State) (nbits w : Nat) : State := s.placeWord nbits w

end Sys2Proof.Machine
end

