-- ==== Sys2Proof/Machine/Handlers.lean ====
section
/-! DEFINITION. The protocol handlers on the far side of the dispatch port (spec/46_handler_contracts.md): environment
agents (spec/00_scope.md R6). A handler is given as a program that calls collaborators (R255), issues commands to the
block, and goes on by what they return; what they return is a draw (R256), so every claim is about every answer. The
source gives the body fields no type and no width: where R255 does not either, a field is a natural number (PRESUMED, log
entry 29). No step of the block calls a handler: its commands reach the block as stimuli (`Handler.stims`). -/

namespace Sys2Proof.Machine

/-! ## Messages -/

/-- The raw-memory regions (R252); any other discriminant is unknown. -/
inductive Region where
  | ram
  | externalFlash
  | unknown
  deriving DecidableEq, Repr

/-- The sensors of R255 other than the raw-ADC channels. -/
inductive Sensor where
  | rpm
  | temperature (i : Nat)
  | batteryVoltage
  | batteryRemaining
  | fuelFlow
  | cpuTemperature
  | rtcVoltage
  deriving DecidableEq, Repr

/-- The accessors of the Sensors collaborator (R255). -/
inductive Accessor where
  | sensor (s : Sensor)
  | rawAdc (i : Nat)
  deriving DecidableEq, Repr

/-- What a sensor returns (R255): a value, and an "is present" flag where it has one. -/
structure Reading where
  value   : Nat
  present : Option Bool
  deriving DecidableEq, Repr

/-- The difference the clock-sync function measures; R255 gives it no type, and it can be negative (PRESUMED, log
entry 29). -/
abbrev Diff := Int

/-- The inbound messages that have a handler, with the fields the source names (R258). R258 lists a variant's fields without
a direction. That the system time of a TimeReference is a field of the outbound message only, that its diff and a Command's
response may be absent from the inbound message only, and that a Command's response is its result code, is a DESIGN CHOICE
(log entry 35), after what R247 and R248 have a reply filled with. -/
inductive Request where
  | timeReference (engineId peerTs : Nat) (diff : Option Diff)
  | command (engineId operation : Nat) (response : Option Nat)
  | paramRequest (engineId : Nat) (byId byIndex : Option Nat)
  | paramSet (engineId id value : Nat)
  | memoryDump (engineId : Nat) (region : Region) (address size streamId : Nat)
  deriving DecidableEq, Repr

/-- The outbound messages, with the fields the source names (R258); which field stands in which direction is a DESIGN CHOICE
(log entry 35, `Request`). It names none for StatusText: a text is PRESUMED (log entry 29). -/
inductive Message where
  | status (flags : Nat) (sensors : List (Sensor × Reading)) (rawAdc : Option (List Reading))
  | statusText (text : List Byte)
  | timeReference (engineId peerTs : Nat) (systemTime : Time) (diff : Diff)
  | command (engineId operation result : Nat)
  | paramValue (id value paramIndex paramCount : Nat)
  | memoryDumpPage (streamId address : Nat) (data : List Byte)
  deriving DecidableEq, Repr

/-- The variant of an outbound message. -/
def Message.variant : Message → Variant
  | .status _ _ _ => .status
  | .statusText _ => .statusText
  | .timeReference _ _ _ _ => .timeReference
  | .command _ _ _ => .command
  | .paramValue _ _ _ _ => .paramValue
  | .memoryDumpPage _ _ _ => .memoryDumpPage

/-! ## Collaborators (R255) -/

/-- A parameter as the store returns it. R255 does not say what `get_by_id` and `get_by_index` return: identity, value and
index are a DESIGN CHOICE (log entry 35). -/
structure Param where
  id    : Nat
  value : Nat
  index : Nat
  deriving DecidableEq, Repr

/-- The outcome of `set(id, value)` (R250, R255). -/
inductive SetOutcome where
  | ok | clamped | error
  deriving DecidableEq, Repr

/-- The calls a handler makes (R255). `signal` is the block's own call (`State.signal`). -/
inductive Call where
  /-- `is_time_known()` -/
  | isTimeKnown
  /-- `get_system_time()` -/
  | getSystemTime
  /-- `get_timestamp()` -/
  | getTimestamp
  /-- `set_timestamp(peer_ts)` -/
  | setTimestamp (peerTs : Nat)
  /-- a read-only accessor of the sensors -/
  | sensor (a : Accessor)
  /-- whether a subsystem's flag is set, for the bitmask of R246; R255 lists no accessor for it (DESIGN CHOICE, log entry
  35) -/
  | flag (subsystem : Nat)
  /-- `execute(operation_code)` -/
  | execute (operation : Nat)
  /-- `count()` -/
  | count
  /-- `get_by_id` -/
  | getById (id : Nat)
  /-- `get_by_index` -/
  | getByIndex (i : Nat)
  /-- `set(id, value)` -/
  | set (id value : Nat)
  /-- `read(region, address, buffer, size)` -/
  | read (region : Region) (address size : Nat)
  deriving DecidableEq, Repr

/-- What a call returns (R255). A read returns the bytes it read, none where its result is not positive (R252). -/
abbrev Call.Answer : Call → Type
  | .isTimeKnown => Bool
  | .getSystemTime => Time
  | .getTimestamp => Time
  | .setTimestamp _ => Diff
  | .sensor _ => Reading
  | .flag _ => Bool
  | .execute _ => Nat
  | .count => Nat
  | .getById _ => Option Param
  | .getByIndex _ => Option Param
  | .set _ _ => SetOutcome
  | .read _ _ _ => List Byte

/-! ## Handlers as programs (R245) -/

/-- A handler: it calls a collaborator, replies on the originating channel, broadcasts, or reports an error, and goes on
by what comes back; where the source leaves open what it does, it has a choice. At its end it returns. -/
inductive Handler where
  | done
  | call (q : Call) (next : q.Answer → Handler)
  | reply (m : Message) (next : Result → Handler)
  | broadcast (m : Message) (next : Result → Handler)
  | reportError (next : Handler)
  | choose (next : Bool → Handler)

/-- What a handler does, in order. -/
inductive HandlerAct where
  | call (q : Call)
  | reply (m : Message)
  | broadcast (m : Message)
  | reportError
  deriving DecidableEq, Repr

/-- The message an act sends, if it sends one. -/
def HandlerAct.sent : HandlerAct → Option Message
  | .reply m => some m
  | .broadcast m => some m
  | .call _ => none
  | .reportError => none

/-- What surrounds a handler (R256): for each question of its run, numbered in order, the draw that answers it. -/
structure Surroundings where
  /-- what the collaborators return -/
  answer : Nat → (q : Call) → q.Answer
  /-- what the block returns for a command -/
  result : Nat → Result
  /-- what the handler does where the source leaves it open -/
  choice : Nat → Bool

/-- The acts of a handler among `w`, from question `n` on. -/
def Handler.acts (w : Surroundings) : Handler → Nat → List HandlerAct
  | .done, _ => []
  | .call q next, n => .call q :: (next (w.answer n q)).acts w (n + 1)
  | .reply m next, n => .reply m :: (next (w.result n)).acts w (n + 1)
  | .broadcast m next, n => .broadcast m :: (next (w.result n)).acts w (n + 1)
  | .reportError next, n => .reportError :: next.acts w n
  | .choose next, n => (next (w.choice n)).acts w (n + 1)

/-- How an error is reported (U12, open: a parameter): outside the block, or as a StatusText through it. It is no signal
of the block (R254). DESIGN CHOICE (log entry 35): of the ways U12 leaves open, these three. -/
inductive ErrorReport where
  | outside
  | reply (text : List Byte)
  | broadcast (text : List Byte)
  deriving DecidableEq, Repr

/-- The stimulus by which a handler's act on behalf of `c` reaches the block, for an encoding `enc` of message bodies; a
collaborator's call has none (R256). -/
def HandlerAct.stim (k : Config) (enc : Message → List Byte) (report : ErrorReport) (c : ChanId) :
    HandlerAct → Option Stim
  | .call _ => none
  | .reply m => some (.reply c (tagOf k m.variant) (enc m))
  | .broadcast m => some (.broadcast (.handler c) (tagOf k m.variant) (enc m))
  | .reportError =>
    match report with
    | .outside => none
    | .reply text => some (.reply c (tagOf k .statusText) (enc (.statusText text)))
    | .broadcast text => some (.broadcast (.handler c) (tagOf k .statusText) (enc (.statusText text)))

/-- The stimuli of a handler's run on behalf of `c`: its commands, and its return (R245). -/
def Handler.stims (w : Surroundings) (k : Config) (enc : Message → List Byte) (report : ErrorReport) (c : ChanId)
    (h : Handler) : List Stim :=
  (h.acts w 0).filterMap (HandlerAct.stim k enc report c) ++ [.handlerDone c]

/-! ## The typed body as a handler reads it (R181, R245, R258) -/

/-- How the typed body values are read and made: the fields R258 names of an inbound value, and the value of an outbound
message. R181 leaves both open, so this is an argument, and a claim is about every one; the types are PRESUMED (log entry
29). -/
structure BodyFields where
  /-- `x.engine_id` of a variant's body (R245) -/
  engineId  : Variant → BodyVal → Nat
  /-- TimeReference: the peer-supplied timestamp, the measured diff -/
  peerTs    : BodyVal → Nat
  diff      : BodyVal → Option Diff
  /-- Command: the operation code, the response -/
  operation : BodyVal → Nat
  response  : BodyVal → Option Nat
  /-- ParamRequest: the parameter identifier, the parameter index -/
  byId      : BodyVal → Option Nat
  byIndex   : BodyVal → Option Nat
  /-- ParamSet: the parameter id, the value -/
  setId     : BodyVal → Nat
  setValue  : BodyVal → Nat
  /-- MemoryDumpRequest: the region, the address, the size, the stream identifier -/
  region    : BodyVal → Region
  address   : BodyVal → Nat
  size      : BodyVal → Nat
  streamId  : BodyVal → Nat
  /-- the body value of an outbound message -/
  value     : Message → BodyVal

/-- The request a dispatched body is (R245); the variants without an inbound handler have none (R227, R253). -/
def BodyFields.request (f : BodyFields) (v : Variant) (x : BodyVal) : Option Request :=
  match v with
  | .timeReference => some (.timeReference (f.engineId v x) (f.peerTs x) (f.diff x))
  | .command => some (.command (f.engineId v x) (f.operation x) (f.response x))
  | .paramRequest => some (.paramRequest (f.engineId v x) (f.byId x) (f.byIndex x))
  | .paramSet => some (.paramSet (f.engineId v x) (f.setId x) (f.setValue x))
  | .memoryDumpRequest =>
    some (.memoryDump (f.engineId v x) (f.region x) (f.address x) (f.size x) (f.streamId x))
  | .status => none
  | .statusText => none
  | .paramValue => none
  | .logRequest => none
  | .memoryDumpPage => none

/-- The body bytes of an outbound message (R181): `body_encode` of its value. -/
def BodyFields.encode (f : BodyFields) (k : Config) (m : Message) : List Byte := bodyEncode k m.variant (f.value m)

/-! ## Filters (R245) -/

/-- The *exact* filter. -/
def exactFilter (cfg : CfgRegs) (engineId : Nat) : Bool := engineId == cfg.engineId

/-- The *self-or-broadcast* filter. -/
def selfOrBroadcast (cfg : CfgRegs) (engineId : Nat) : Bool := engineId == cfg.engineId || engineId == 0

/-! ## The handlers -/

/-- Asks a question for each item of a list, in its order, and goes on with the answers. -/
def askAll {α β : Type} (ask : α → (β → Handler) → Handler) : List α → (List β → Handler) → Handler
  | [], next => next []
  | x :: xs, next => ask x fun r => askAll ask xs fun rs => next (r :: rs)

/-- Asks for a sensor's reading. -/
def askSensor (a : Accessor) (next : Reading → Handler) : Handler := .call (.sensor a) next

/-- Asks for a subsystem's flag. -/
def askFlag (subsystem : Nat) (next : Bool → Handler) : Handler := .call (.flag subsystem) next

/-- A bitmask, the first flag in bit 0. -/
def bitmask : List Bool → Nat
  | [] => 0
  | b :: bs => b.toNat + 2 * bitmask bs

/-- The Status handler (R246): it assembles the bitmask of the subsystems' flags and the sensor snapshot, and sends one
reply; the raw-ADC values are read and included only with the debug flag. Which subsystems and sensors there are, how many
raw-ADC channels, bit `i` for subsystem `i`, and the order of the calls are a DESIGN CHOICE (log entry 35). -/
def handleStatus (cfg : CfgRegs) (subsystems : Nat) (sensors : List Sensor) (adcChannels : Nat) : Handler :=
  askAll askFlag (List.range subsystems) fun flags =>
    askAll askSensor (sensors.map .sensor) fun rs =>
      if cfg.dbgAdcRaw then
        askAll askSensor ((List.range adcChannels).map .rawAdc) fun adc =>
          .reply (.status (bitmask flags) (sensors.zip rs) (some adc)) fun _ => .done
      else .reply (.status (bitmask flags) (sensors.zip rs) none) fun _ => .done

/-- The TimeReference handler (R247): a message that already carries a diff is not answered. The reply is stamped with
system time and offset; that it repeats the request's engine id and peer timestamp is a DESIGN CHOICE (log entry 35): the
source does not say which it carries. So is the order of the two calls. -/
def handleTimeReference (cfg : CfgRegs) (engineId peerTs : Nat) (diff : Option Diff) : Handler :=
  if selfOrBroadcast cfg engineId && diff.isNone then
    .call (.setTimestamp peerTs) fun measured =>
      .call .getSystemTime fun time =>
        .reply (.timeReference engineId peerTs time measured) fun _ => .done
  else .done

/-- The Command handler (R248): a message that already carries a response is dropped, and nothing is executed. -/
def handleCommand (cfg : CfgRegs) (engineId operation : Nat) (response : Option Nat) : Handler :=
  if exactFilter cfg engineId && response.isNone then
    .call (.execute operation) fun result => .reply (.command engineId operation result) fun _ => .done
  else .done

/-- The broadcast of the parameter at an index (R249), with the current count; an unknown index is skipped. The index it
carries is the one that was asked for, not the one the store returns with the parameter: a DESIGN CHOICE (log entry 35). -/
def paramByIndex (i : Nat) (next : Handler) : Handler :=
  .call (.getByIndex i) fun p =>
    match p with
    | some p => .call .count fun n => .broadcast (.paramValue p.id p.value i n) fun _ => next
    | none => next

/-- The broadcast of the parameter with an identifier (R249, R250), with the current count; an unknown identifier is
skipped. The identity and the index it carries are those the store returns: a DESIGN CHOICE (log entry 35). -/
def paramById (id : Nat) (next : Handler) : Handler :=
  .call (.getById id) fun p =>
    match p with
    | some p => .call .count fun n => .broadcast (.paramValue p.id p.value p.index n) fun _ => next
    | none => next

/-- What the handler does when both an identifier and an index are present (U11: open). -/
inductive BothPresent where
  | byId | byIndex | drop
  deriving DecidableEq, Repr

/-- The ParamRequest handler (R249): by identifier, by index, or a full dump over every valid index. That the valid indices
of a dump are those below the count asked for once, at its start, and not anew while the dump runs, is a DESIGN CHOICE (log
entry 35): R249 says only "every valid index". -/
def handleParamRequest (cfg : CfgRegs) (both : BothPresent) (engineId : Nat) (byId byIndex : Option Nat) : Handler :=
  if selfOrBroadcast cfg engineId then
    match byId, byIndex with
    | some id, none => paramById id .done
    | none, some i => paramByIndex i .done
    | none, none => .call .count fun n => (List.range n).foldr paramByIndex .done
    | some id, some i =>
      match both with
      | .byId => paramById id .done
      | .byIndex => paramByIndex i .done
      | .drop => .done
  else .done

/-- The ParamSet handler (R250): the set, and on success the value re-read and broadcast. That nothing is broadcast where
the re-read finds no such parameter is a DESIGN CHOICE (log entry 35): the source is silent. -/
def handleParamSet (cfg : CfgRegs) (engineId id value : Nat) : Handler :=
  if exactFilter cfg engineId then
    .call (.set id value) fun outcome =>
      match outcome with
      | .ok => paramById id .done
      | .clamped => paramById id .done
      | .error => .done
  else .done

/-- The page loop of the memory dump (R252), at most `fuel` pages. The region selects the reader, which is asked for no
more than a page; a result that is not positive is reported and ends the loop. Where a page's reply fails, going on or
giving up is open (U13). That bytes beyond those asked for are cut off is a DESIGN CHOICE (log entry 35): the source is
silent on a reader that returns more. -/
def dumpPages (pageSize streamId : Nat) (region : Region) : Nat → Nat → Nat → Handler
  | 0, _, _ => .done
  | fuel + 1, addr, remaining =>
    if remaining = 0 then .done
    else
      .call (.read region addr (min pageSize remaining)) fun bytes =>
        let data := List.take (min pageSize remaining) bytes
        if data.isEmpty then .reportError .done
        else
          .reply (.memoryDumpPage streamId addr data) fun r =>
            if r = .txOk then dumpPages pageSize streamId region fuel (addr + data.length) (remaining - data.length)
            else
              .choose fun giveUp =>
                if giveUp then .done
                else dumpPages pageSize streamId region fuel (addr + data.length) (remaining - data.length)

/-- The MemoryDumpRequest handler (R252), in pages of `PAGE_SIZE` bytes (R9): an unknown region is a reported error. Every
page takes at least one byte, so the size bounds the pages. -/
def handleMemoryDump (k : Config) (cfg : CfgRegs) (engineId : Nat) (region : Region) (address size streamId : Nat) :
    Handler :=
  if exactFilter cfg engineId then
    match region with
    | .unknown => .reportError .done
    | .ram => dumpPages k.pageSize streamId .ram size address size
    | .externalFlash => dumpPages k.pageSize streamId .externalFlash size address size
  else .done

/-- The handler of an inbound message (R245), at the parameters `k` and the configuration `cfg`. -/
def handleRequest (k : Config) (cfg : CfgRegs) (both : BothPresent) : Request → Handler
  | .timeReference engineId peerTs diff => handleTimeReference cfg engineId peerTs diff
  | .command engineId operation response => handleCommand cfg engineId operation response
  | .paramRequest engineId byId byIndex => handleParamRequest cfg both engineId byId byIndex
  | .paramSet engineId id value => handleParamSet cfg engineId id value
  | .memoryDump engineId region address size streamId =>
    handleMemoryDump k cfg engineId region address size streamId

/-- The handler the dispatcher calls with `(c, v, x)` (R227, R245): it reads the typed body. A variant without an inbound
handler is never dispatched. -/
def handleDispatch (k : Config) (cfg : CfgRegs) (both : BothPresent) (f : BodyFields) (v : Variant) (x : BodyVal) :
    Handler :=
  match f.request v x with
  | some r => handleRequest k cfg both r
  | none => .done

/-- What the source leaves open of the handlers of a unit, together: how bodies are read and made (R181), the case of both
fields (U11), the lists of the Status handler, and how an error is reported (U12). -/
structure HandlerParams where
  fields      : BodyFields
  both        : BothPresent
  subsystems  : Nat
  sensors     : List Sensor
  adcChannels : Nat
  report      : ErrorReport

/-- The handler an output of the block calls, and the channel on whose behalf it runs (R245, R246): a dispatch calls the
variant's handler, and `StatusCall(c)` the Status handler. -/
def Output.handler (h : HandlerParams) (k : Config) (cfg : CfgRegs) : Output → Option (ChanId × Handler)
  | .dispatch c v x => some (c, handleDispatch k cfg h.both h.fields v x)
  | .statusCall c => some (c, handleStatus cfg h.subsystems h.sensors h.adcChannels)
  | _ => none

/-- The stimuli by which the handler that an output calls comes back to the block (R245): its commands, and its return;
`w` is what surrounds this call. -/
def Output.handlerStims (h : HandlerParams) (w : Surroundings) (k : Config) (cfg : CfgRegs) (o : Output) : List Stim :=
  match o.handler h k cfg with
  | some (c, p) => p.stims w k (h.fields.encode k) h.report c
  | none => []

end Sys2Proof.Machine
end

