-- ==== Sys2Proof/Machine/Ports.lean ====
section
/-! DEFINITION. The output ports of spec/30_encoding.md R106 as views: the levels a channel's ports show in a state, the
values the outputs of a step carry, and all of them together for one step. R106 only fixes names for a model that wants
signals; no step reads a port (log entry 36). -/

namespace Sys2Proof.Machine

/-! ## Levels -/

/-- `running[c]` (R106). -/
def Chan.running (ch : Chan) : Bool := ch.sesPhase != .stopped

/-- `rx_ready[c]` (R106, R281): a `receive(c)` is pending. -/
def Chan.rxReady (ch : Chan) : Bool := ch.sesPhase == .receive

/-- `tx_valid[c]` (R106, R161): a write is pending. -/
def Chan.txValid (ch : Chan) : Bool := ch.txJob != .none

/-- `tx_data[c]` (R106): the byte the pending write emits at the next `TxReady(c)` (R161, R162, R166); none while no write is
pending, where R106 gives the port no value (DESIGN CHOICE, log entry 36). -/
def Chan.txData (k : Config) (ch : Chan) : Option Byte :=
  match ch.txJob with
  | .none => none
  | .send _ => (ch.sendByte k).map (·.1)
  | .raw _ rest => rest.head?

/-! ## Values of the outputs -/

/-- `fault_level` of a signal, `fault_valid` being its presence (R106). -/
def Output.faultLevel : Output → Option (BitVec 1)
  | .signal l => some (BitVec.ofNat 1 l.code)
  | _ => none

/-- What the dispatch port of a channel carries (R106): `disp_variant[c]` and `disp_len[c]`. The body itself is read from
`c.rx_buf`. The variant is a number, since an open `TAG` need not fit R106's 4 bits (DESIGN CHOICE, log entry 36). -/
structure DispatchPort where
  variant : Nat
  len     : Byte
  deriving DecidableEq, Repr

/-- The dispatch port of channel `c` at an output (R106), `disp_valid[c]` being its presence; `ch` is the channel, whose
receive buffer holds the payload until the handler has returned (R332). `disp_variant` is `TAG(v)`. R106 does not say what
`disp_len` counts: the bytes of the body that pass 2 takes out of the payload, as `cmd_len` goes with a body, is a DESIGN
CHOICE (log entry 36). -/
def Output.dispatchPort (k : Config) (c : ChanId) (ch : Chan) : Output → Option DispatchPort
  | .dispatch d v _ =>
    if d = c then (bodyBytes k v ch.rxPayload).map fun body => ⟨tagOf k v, BitVec.ofNat 8 body.length⟩ else none
  | _ => none

/-- `status_call[c]` at an output (R106). -/
def Output.callsStatus (c : ChanId) : Output → Bool
  | .statusCall d => d == c
  | _ => false

/-- `cmd_result` of a finished command, `cmd_done` being its presence (R106, R270). The commands of that port are the
handlers'; a stopping worker's broadcast is its own call (DEDUCED, log entry 36). -/
def Output.cmdResult : Output → Option (BitVec 2)
  | .replyDone _ r => some (BitVec.ofNat 2 r.code)
  | .bcastDone (.handler _) r => some (BitVec.ofNat 2 r.code)
  | _ => none

/-! ## All output ports, in one step -/

/-- The output ports of a channel (R106): a port with a valid line is present when the line is 1. -/
structure ChanPorts where
  running    : Bool
  rxReady    : Bool
  txValid    : Bool
  txData     : Option Byte
  dispatch   : Option DispatchPort
  statusCall : Bool
  deriving DecidableEq, Repr

/-- The output ports of a channel with every line at 0, as in a cycle of `rst` (R310). -/
def ChanPorts.idle : ChanPorts where
  running    := false
  rxReady    := false
  txValid    := false
  txData     := none
  dispatch   := none
  statusCall := false

/-- The output ports of the block (R106). -/
structure OutPorts where
  chans : List ChanPorts
  fault : Option (BitVec 1)
  cmd   : Option (BitVec 2)
  deriving DecidableEq, Repr

/-- The outputs of a step from `s` to `t`: those that follow what was put out before (R18). -/
def State.stepOutputs (s t : State) : List Output := t.out.drop s.out.length

/-- The output ports of channel `c`, where its registers are `ch`, in a step with the outputs `os`. -/
def Chan.ports (k : Config) (c : ChanId) (ch : Chan) (os : List Output) : ChanPorts where
  running    := ch.running
  rxReady    := ch.rxReady
  txValid    := ch.txValid
  txData     := ch.txData k
  dispatch   := os.findSome? (Output.dispatchPort k c ch)
  statusCall := os.any (Output.callsStatus c)

/-- Whether the next step of `s` is a cycle of `rst` (R310). -/
def State.rstNext (s : State) : Bool :=
  match s.script with
  | .rst _ :: _ => true
  | _ => false

/-- The output ports in a cycle of `rst` (R310): every line is 0, whatever the block was doing. -/
def State.rstPorts (s : State) : OutPorts where
  chans := s.chans.map fun _ => ChanPorts.idle
  fault := none
  cmd   := none

/-- The output ports in a cycle without `rst` (R106), for a step from `s` to `t`: the levels as the step finds them, so that a
byte is emitted in a step with `tx_valid` and `tx_ready`, and the outputs the step makes (DESIGN CHOICE, log entry 36). -/
def State.runPorts (s t : State) : OutPorts where
  chans := s.chans.mapIdx fun c ch => ch.ports s.config c (s.stepOutputs t)
  fault := (s.stepOutputs t).findSome? Output.faultLevel
  cmd   := (s.stepOutputs t).findSome? Output.cmdResult

/-- The output ports in the step from `s` to `t` (R106, R310). -/
def State.outPorts (s t : State) : OutPorts := if s.rstNext then s.rstPorts else s.runPorts t

end Sys2Proof.Machine
end

