-- ==== Sys2Proof/Safety.lean ====
section
/-! DEFINITION. The terms the claims are made in: the invariants of the registers, the registry, the locks and the
buffers, what an operation leaves alone, and feeding a receiver bytes. -/

namespace Sys2Proof.Machine

/-! ## Invariants -/

/-- The receiver's registers agree with its state (R26, R144 (a) and (b)): the accumulator holds the CRC of what has
been read of the frame after its start marker, and the count is below the length while payload is read. -/
def Chan.rxInv (k : Config) (ch : Chan) : Prop :=
  match ch.rxState with
  | .waitStart => True
  | .seq => ch.rxCrc = k.crcInit
  | .msgid => ch.rxCrc = crc8Block k k.crcInit [ch.rxSeq]
  | .len => ch.rxCrc = crc8Block k k.crcInit [ch.rxSeq, ch.rxMsgid]
  | .payload =>
    1 ≤ ch.rxLen.toNat ∧ ch.rxCnt < ch.rxLen.toNat ∧
    ch.rxCrc = frameRunning k ch.rxSeq ch.rxMsgid ch.rxLen (Memory.readN ch.rxBuf 0 ch.rxCnt)
  | .crc =>
    ch.rxCnt = ch.rxLen.toNat ∧ ch.rxCrc = frameRunning k ch.rxSeq ch.rxMsgid ch.rxLen ch.rxPayload

/-- Every receiver's registers agree with its state. -/
def State.rxInv (s : State) : Prop := ∀ ch ∈ s.chans, ch.rxInv s.config

/-- The sender's registers agree with its phase (R162, R163): no phase without a pending write, and during a `TX.SEND`
the accumulator holds the CRC of what has been emitted after the start marker. -/
def Chan.txInv (k : Config) (ch : Chan) : Prop :=
  match ch.txJob with
  | .none => ch.txPhase = .idle
  | .raw _ rest => ch.txPhase ≠ .idle ∧ rest ≠ []
  | .send _ =>
    match ch.txPhase with
    | .idle => False
    | .start => ch.txCrc = k.crcInit ∧ ch.txIdx = 0
    | .seq => ch.txCrc = k.crcInit ∧ ch.txIdx = 0
    | .msgid => ch.txCrc = crc8Block k k.crcInit [ch.txHdrSeq] ∧ ch.txIdx = 0
    | .len => ch.txCrc = crc8Block k k.crcInit [ch.txHdrSeq, ch.txHdrMsgid] ∧ ch.txIdx = 0
    | .payload =>
      ch.txIdx < ch.txLen.toNat ∧
      ch.txCrc = frameRunning k ch.txHdrSeq ch.txHdrMsgid ch.txLen (Memory.readN ch.txBuf 0 ch.txIdx)
    | .crc => ch.txCrc = frameRunning k ch.txHdrSeq ch.txHdrMsgid ch.txLen ch.txPayload

/-- Every sender's registers agree with its phase. -/
def State.txInv (s : State) : Prop := ∀ ch ∈ s.chans, ch.txInv s.config

/-- The registry and the workers agree (R33, R38): a worker refers to slot `i` exactly when slot `i` holds its channel,
and no slot holds a channel that does not exist. -/
def State.regInv (s : State) : Prop :=
  (∀ (c : ChanId) (ch : Chan), s.chans[c]? = some ch → ∀ i, ch.sesSlot = some i ↔ s.reg[i]? = some (some c)) ∧
  (∀ (i : SlotId) (c : ChanId), s.reg[i]? = some (some c) → c < s.chans.length)

/-- The phases in which a worker runs its loop (R220). -/
def SesPhase.inLoop : SesPhase → Bool
  | .checkTerm => true
  | .checkStatus => true
  | .receive => true
  | .dispatch => true
  | _ => false

/-- The phase in which a worker can be at a place in a composite operation (R220 to R230). -/
def WorkerCtl.allows (ctl : WorkerCtl) (p : SesPhase) : Bool :=
  match ctl with
  | .run => true
  | .startAcq => p == .stopped
  | .startInit => p == .stopped
  | .startRel => p == .stopped
  | .startArm => p == .stopped
  | .startClaim _ => p == .stopped
  | .startEnter => p == .stopped
  | .recvTop => p == .receive
  | .recvRead => p == .receive
  | .recvDone _ => p == .receive
  | .matched _ _ _ => p == .dispatch
  | .handler .status => p == .checkStatus
  | .handler (.dispatch _) => p == .dispatch
  | .replyAcq h _ _ => p == (match h with | .status => .checkStatus | .dispatch _ => .dispatch)
  | .replyEncode h _ _ => p == (match h with | .status => .checkStatus | .dispatch _ => .dispatch)
  | .replySend h => p == (match h with | .status => .checkStatus | .dispatch _ => .dispatch)
  | .replyWait h => p == (match h with | .status => .checkStatus | .dispatch _ => .dispatch)
  | .replyRel h _ => p == (match h with | .status => .checkStatus | .dispatch _ => .dispatch)
  | .handlerBcast h _ => p == (match h with | .status => .checkStatus | .dispatch _ => .dispatch)
  | .finalBcast _ => p == .finalBcast

/-- The worker's phase, its place in a composite operation and its slot agree: a worker in its loop holds a slot (R280:
there is no unregistered mode), a stopped one holds none but at the very end of its start. -/
def Chan.sesInv (ch : Chan) : Prop :=
  ch.ctl.allows ch.sesPhase = true ∧
  (ch.sesPhase.inLoop = true → ch.sesSlot ≠ none) ∧
  (ch.sesPhase = .stopped → ch.ctl ≠ .startEnter → ch.sesSlot = none) ∧
  (ch.ctl = .startEnter → ch.sesSlot ≠ none) ∧
  (ch.sesPhase = .finalBcast → ch.sesSlot = none)

/-- Every worker's registers agree. -/
def State.sesInv (s : State) : Prop := ∀ ch ∈ s.chans, ch.sesInv

/-- The places at which a worker holds the lock of its medium (R71, R221, R229). -/
def WorkerCtl.holdsLock : WorkerCtl → Bool
  | .startInit => true
  | .startRel => true
  | .replyEncode _ _ _ => true
  | .replySend _ => true
  | .replyWait _ => true
  | .replyRel _ _ => true
  | _ => false

/-- The session whose lock a broadcast holds (R205). -/
def BcastStage.lockOf : BcastStage → Option ChanId
  | .visit => none
  | .acq _ => none
  | .encode c => some c
  | .copy c => some c
  | .send c => some c
  | .raw c => some c
  | .wait c => some c
  | .rel c _ => some c

/-- The caller of the write pending on a channel. -/
def TxJob.caller : TxJob → Option Agent
  | .none => Option.none
  | .send a => some a
  | .raw a _ => some a

/-- The locks and the places of the agents agree (R71, R75, R165, R211). That an agent holds one lock at most is said of
the workers and the broadcasts, the agents of the spec; that the driver holds none is `State.driverIdle`. -/
structure State.lockInv (s : State) : Prop where
  /-- a worker at a place inside its critical section holds the lock of its medium -/
  worker : ∀ (c : ChanId) (ch : Chan), s.chans[c]? = some ch → ch.ctl.holdsLock = true →
    s.locks[s.mediumOf c]? = some (.held (.worker c))
  /-- a broadcast inside a critical section holds the lock of that session's medium -/
  bcast : ∀ b ∈ s.bcasts, ∀ c, b.stage.lockOf = some c → s.locks[s.mediumOf c]? = some (.held (.bcast b.id))
  /-- a worker holds no other lock -/
  ofWorker : ∀ (m : MediumId) (c : ChanId), s.locks[m]? = some (.held (.worker c)) →
    m = s.mediumOf c ∧ ∃ ch, s.chans[c]? = some ch ∧ ch.ctl.holdsLock = true
  /-- a broadcast holds no other lock -/
  ofBcast : ∀ (m : MediumId) (k : BcastId), s.locks[m]? = some (.held (.bcast k)) →
    ∃ b ∈ s.bcasts, b.id = k ∧ ∃ c, b.stage.lockOf = some c ∧ m = s.mediumOf c
  /-- the caller of a pending write holds the lock of its medium -/
  job : ∀ (c : ChanId) (ch : Chan) (a : Agent), s.chans[c]? = some ch → ch.txJob.caller = some a → s.locks[s.mediumOf c]? = some (.held a)
  /-- a worker's pending write is its reply, on its own channel -/
  jobWorker : ∀ (c : ChanId) (ch : Chan) (d : ChanId), s.chans[c]? = some ch → ch.txJob.caller = some (.worker d) →
    d = c ∧ ∃ h, ch.ctl = .replyWait h
  /-- a broadcast's pending write is on the session it serves -/
  jobBcast : ∀ (c : ChanId) (ch : Chan) (k : BcastId), s.chans[c]? = some ch → ch.txJob.caller = some (.bcast k) →
    ∃ b ∈ s.bcasts, b.id = k ∧ b.stage = .wait c
  /-- two writes are never pending on one medium -/
  jobs : ∀ (c d : ChanId) (ch dh : Chan), s.chans[c]? = some ch → s.chans[d]? = some dh → ch.txJob ≠ .none → dh.txJob ≠ .none →
    s.mediumOf c = s.mediumOf d → c = d
  /-- a broadcast's number is its own -/
  fresh : (s.bcasts.map (·.id)).Nodup ∧ ∀ b ∈ s.bcasts, b.id < s.nextBc

/-- The driver, which no rule names, holds no lock, waits for no write and has called no broadcast (R286). -/
def State.driverIdle (s : State) : Prop :=
  (∀ l ∈ s.locks, l ≠ .held .driver) ∧ (∀ ch ∈ s.chans, ch.txJob.caller ≠ some .driver) ∧
  ∀ b ∈ s.bcasts, b.caller ≠ .driver

/-- A buffer is in canonical form and holds indices 0 to 254 only (R28, R30). -/
def Memory.ok (m : Memory) : Bool := Memory.wf m && m.all fun cell => decide (cell.1 < bufSize)

/-- Every buffer is canonical and within its capacity, and a broadcast's private frame is at most 260 bytes (R28, R30,
R42). -/
def State.memInv (s : State) : Prop :=
  (∀ ch ∈ s.chans, Memory.ok ch.rxBuf = true ∧ Memory.ok ch.txBuf = true) ∧
  (∀ b ∈ s.bcasts, ∀ f, b.frame = some f → f.length ≤ 260)

/-- The sizes the parameters give (R20, R38, R39): channels, registry slots, locks, and a medium with a lock for each
channel. -/
def State.sizeInv (s : State) : Prop :=
  s.chans.length = s.config.nChan ∧ s.reg.length = s.config.maxInstances ∧ s.locks.length = s.config.nMedia ∧
  s.medium.length = s.config.nChan ∧ ∀ m ∈ s.medium, m < s.locks.length

/-! ## What is left alone -/

/-- The channels other than `c` are unchanged. -/
def OthersKept (s t : State) (c : ChanId) : Prop :=
  t.chans.length = s.chans.length ∧ ∀ d, d ≠ c → t.chans[d]? = s.chans[d]?

/-- The configuration, the media and what stands around the block are unchanged; no operation writes them. -/
def WorldKept (s t : State) : Prop :=
  t.config = s.config ∧ t.cfg = s.cfg ∧ t.medium = s.medium ∧ t.now = s.now ∧ t.script = s.script

/-- The registry, the locks and the broadcasts are unchanged. -/
def SharedKept (s t : State) : Prop :=
  t.reg = s.reg ∧ t.locks = s.locks ∧ t.bcasts = s.bcasts ∧ t.nextBc = s.nextBc

/-- Everything but the channels and the outputs is unchanged. -/
def GlobalsKept (s t : State) : Prop := WorldKept s t ∧ SharedKept s t

/-- Every byte of the receive buffer reads as before. -/
def RxBufKept (a b : Chan) : Prop := ∀ i, Memory.read b.rxBuf i = Memory.read a.rxBuf i

/-- Every byte of the send buffer reads as before. -/
def TxBufKept (a b : Chan) : Prop := ∀ i, Memory.read b.txBuf i = Memory.read a.txBuf i

/-- The receiver's registers other than `rx_state` are unchanged. -/
def RxRegsKept (a b : Chan) : Prop :=
  b.rxSeq = a.rxSeq ∧ b.rxMsgid = a.rxMsgid ∧ b.rxLen = a.rxLen ∧ b.rxCnt = a.rxCnt ∧ b.rxCrc = a.rxCrc

/-- The receiver is unchanged. -/
def ReceiverKept (a b : Chan) : Prop := b.rxState = a.rxState ∧ RxRegsKept a b ∧ RxBufKept a b

/-- The sender is unchanged, and so is the write pending on it. -/
def SenderKept (a b : Chan) : Prop :=
  b.txSeq = a.txSeq ∧ b.txLen = a.txLen ∧ b.txPhase = a.txPhase ∧ b.txIdx = a.txIdx ∧ b.txCrc = a.txCrc ∧
  b.txHdrSeq = a.txHdrSeq ∧ b.txHdrMsgid = a.txHdrMsgid ∧ b.txJob = a.txJob ∧ TxBufKept a b

/-- The worker's registers are unchanged; its place in a composite operation may move. -/
def WorkerKept (a b : Chan) : Prop :=
  b.sesPhase = a.sesPhase ∧ b.sesSlot = a.sesSlot ∧ b.sesTermReq = a.sesTermReq ∧
  b.sesLastStatus = a.sesLastStatus

/-- A channel unchanged but for the place of its worker in a composite operation. -/
def ChanKeptButCtl (a b : Chan) : Prop := ∃ ctl, b = { a with ctl := ctl }

/-- What a called operation on channel `c` leaves alone of everything but that channel and the outputs: the caller `a`
may carry on, which moves a worker's place or a broadcast's context. -/
def CallKept (s t : State) (c : ChanId) (a : Agent) : Prop :=
  WorldKept s t ∧ t.reg = s.reg ∧ t.locks = s.locks ∧ t.nextBc = s.nextBc ∧
  t.chans.length = s.chans.length ∧
  (∀ d dh, d ≠ c → s.chans[d]? = some dh → ∃ dh', t.chans[d]? = some dh' ∧ ChanKeptButCtl dh dh') ∧
  ((∀ k, a ≠ .bcast k) → t.bcasts = s.bcasts)

/-- The contexts of the broadcasts other than `k` are unchanged. -/
def OtherBcastsKept (s t : State) (k : BcastId) : Prop := ∀ j, j ≠ k → t.findBcast j = s.findBcast j

/-- What a step of broadcast `k` leaves alone beside the channels, the locks and the outputs. -/
def BcastOnly (s t : State) (k : BcastId) : Prop :=
  WorldKept s t ∧ t.reg = s.reg ∧ t.nextBc = s.nextBc ∧ OtherBcastsKept s t k

/-- Broadcast `b` has returned `r` to its caller (R203, R206, R230): its context is gone; a handler goes on where it was
blocked, a stopping worker is stopped. -/
def BcastReturns (s t : State) (b : Bcast) (r : Result) : Prop :=
  BcastOnly s t b.id ∧ t.findBcast b.id = none ∧ t.out = s.out ++ [.bcastDone b.caller r] ∧
  match b.caller with
  | .driver => t.chans = s.chans
  | .handler c =>
    ∀ ch h, s.chans[c]? = some ch → ch.ctl = .handlerBcast h b.id →
      t.chans = s.chans.set c { ch with ctl := .handler h }
  | .stop c =>
    ∀ ch, s.chans[c]? = some ch → ch.ctl = .finalBcast b.id →
      t.chans = s.chans.set c { ch with sesPhase := .stopped, ctl := .run }

/-- A receiver step of channel `c` without a result (R130): nothing is put out, and nothing but receiver registers of
`c` is written; the pending `receive` goes on. -/
def RxQuiet (s t : State) (c : ChanId) (ch ch' : Chan) : Prop :=
  t.chans[c]? = some ch' ∧ OthersKept s t c ∧ GlobalsKept s t ∧ t.out = s.out ∧ SenderKept ch ch' ∧
  WorkerKept ch ch' ∧ ch'.rxs = ch.rxs ∧ ch'.ctl = if ch.ctl = .recvRead then .recvTop else ch.ctl

/-- A receiver step of channel `c` with the result `r`, after the signal `l` if there is one (R130): of the registers
only `rx_state` is written; the pending `receive` returns. -/
def RxReturns (s t : State) (c : ChanId) (ch ch' : Chan) (l : Option Level) (r : Result) : Prop :=
  t.chans[c]? = some ch' ∧ OthersKept s t c ∧ GlobalsKept s t ∧
  t.out = s.out ++ (l.toList.map .signal ++ [.result (.worker c) r]) ∧ RxRegsKept ch ch' ∧ RxBufKept ch ch' ∧
  SenderKept ch ch' ∧ WorkerKept ch ch' ∧ ch'.rxs = ch.rxs ∧
  ch'.ctl = if ch.ctl = .recvRead ∨ ch.ctl = .recvTop then .recvDone r else ch.ctl

/-- A step of the worker of `c` alone: no other channel, nothing shared, no receiver and no sender register. -/
def WorkerOnly (s t : State) (c : ChanId) (ch ch' : Chan) : Prop :=
  t.chans[c]? = some ch' ∧ OthersKept s t c ∧ GlobalsKept s t ∧ ReceiverKept ch ch' ∧ SenderKept ch ch' ∧
  ch'.rxs = ch.rxs

/-- The channel an operation is for, where it has one. -/
def channelOf : Instr → Option ChanId
  | .crc8Update _ _ => none
  | .crc8Block _ _ => none
  | .rxStart c => some c
  | .rxDiscard c _ => some c
  | .rxSeq c _ => some c
  | .rxMsgid c _ => some c
  | .rxLen c _ => some c
  | .rxPayload c _ => some c
  | .rxCrc c _ => some c
  | .rxIdleTmo c => some c
  | .rxBulkTmo c => some c
  | .rxIdleRst c => some c
  | .rxBulkRst c => some c
  | .rxReceive c => some c
  | .txSend c _ => some c
  | .txRaw c _ => some c
  | .lockAcq _ _ => none
  | .lockRel _ _ => none
  | .envEncode _ c _ _ => some c
  | .envDiscriminate _ => none
  | .envBody _ _ => none
  | .regClaim c _ => some c
  | .regClear c => some c
  | .bcastSend _ => none
  | .sesStart c _ => some c
  | .sesCheckTerm c => some c
  | .sesStatus c _ => some c
  | .sesReceive c => some c
  | .sesDispatch c _ => some c
  | .sesSend c _ _ => some c
  | .sesStop c => some c
  | .frame c _ _ _ _ => some c
  | .envStatus c _ => some c
  | .envStatusText c _ => some c
  | .envTimeReference c _ => some c
  | .envCommand c _ => some c
  | .envParamRequest c _ => some c
  | .envParamSet c _ => some c
  | .envParamValue c _ => some c
  | .envLogRequest c _ => some c
  | .envMemoryDumpRequest c _ => some c
  | .envMemoryDumpPage c _ => some c

/-- The operations whose failure, or whose good frame, is a case of the closed table of fault signals (R271). -/
def maySignal : Instr → Bool
  | .rxCrc _ _ => true
  | .rxBulkTmo _ => true
  | .rxBulkRst _ => true
  | .txSend _ .timeout => true
  | .txSend _ .chReset => true
  | .txRaw _ .timeout => true
  | .txRaw _ .chReset => true
  | .envEncode _ _ _ _ => true
  | .envBody _ _ => true
  | .envTimeReference _ _ => true
  | .envCommand _ _ => true
  | .envParamRequest _ _ => true
  | .envParamSet _ _ => true
  | .envLogRequest _ _ => true
  | .envMemoryDumpRequest _ _ => true
  | _ => false

/-- The operations that a rule keeps for the agents of the block (R75, R161, R166, R176, R203), asked for by the driver, and
the two decode passes, which the rules keep for the dispatcher (R183, R226, R228). -/
def driverCalls : Instr → Bool
  | .txSend _ (.call .driver _) => true
  | .txRaw _ (.call .driver _) => true
  | .lockAcq .driver _ => true
  | .lockRel .driver _ => true
  | .envEncode .driver _ _ _ => true
  | .envDiscriminate _ => true
  | .envBody _ _ => true
  | .bcastSend (.call .driver _ _) => true
  | _ => false

/-- The operations that touch the receiver of a channel (R73 (b)): the receiver's own and the start of a session. -/
def touchesReceiver (c : ChanId) : Instr → Bool
  | .rxStart d => d == c
  | .rxSeq d _ => d == c
  | .rxMsgid d _ => d == c
  | .rxLen d _ => d == c
  | .rxPayload d _ => d == c
  | .rxCrc d _ => d == c
  | .rxIdleTmo d => d == c
  | .rxBulkTmo d => d == c
  | .rxIdleRst d => d == c
  | .rxBulkRst d => d == c
  | .sesStart d .init => d == c
  | _ => false

/-- The transition table R143, cell by cell: next state, result, signal. -/
def rxTable (k : Config) (ch : Chan) (e : RxEvent) : RxState × Option Result × Option Level :=
  match ch.rxState, e with
  | .waitStart, .byte b => (if b = k.start then .seq else .waitStart, none, none)
  | .seq, .byte _ => (.msgid, none, none)
  | .msgid, .byte _ => (.len, none, none)
  | .len, .byte b => (if b = 0 then .crc else .payload, none, none)
  | .payload, .byte _ => (if ch.rxCnt + 1 = ch.rxLen.toNat then .crc else .payload, none, none)
  | .crc, .byte b =>
    if b = crcFinal k ch.rxCrc then
      (.waitStart, some (.rxOk ch.rxSeq ch.rxMsgid ch.rxLen ch.rxPayload), some .normal)
    else (.waitStart, some (.rxFail .crc), some .fail)
  | .payload, .timeout => (.waitStart, some (.rxFail .midframe), some .fail)
  | .payload, .chReset => (.waitStart, some (.rxFail .midframe), some .fail)
  | st, .timeout => (if k.idleKeepsState then st else .waitStart, some .rxNoData, none)
  | st, .chReset => (if k.idleKeepsState then st else .waitStart, some .rxNoData, none)

/-- The number a varint's bytes stand for, before the cut to 64 bits (R97): seven bits of each byte, the first least
significant. -/
def groupValue : List Byte → Nat
  | [] => 0
  | b :: bs => b.toNat % 128 + 128 * groupValue bs

/-- A worker's step that ends the dispatch of a message (R226): the next iteration begins. -/
def DispatchEnds (s t : State) (c : ChanId) (ch ch' : Chan) (outs : List Output) : Prop :=
  WorkerOnly s t c ch ch' ∧ t.out = s.out ++ outs ∧ ch'.sesPhase = .checkTerm ∧ ch'.ctl = .run ∧
  ch'.sesSlot = ch.sesSlot ∧ ch'.sesTermReq = ch.sesTermReq ∧ ch'.sesLastStatus = ch.sesLastStatus

/-! ## Several steps -/

/-- The worker of `c` takes `n` steps. -/
def turns (c : ChanId) : Nat → State → Answer
  | 0, s => .next s
  | n + 1, s =>
    match (workerTurn s c).carryOut with
    | .next t => turns c n t
    | .fault f => .fault f
    | .refused r => .refused r

/-- The broadcast `k` visits the slots of a list, in its order. -/
def visitAll (k : BcastId) : List SlotId → State → Answer
  | [], s => .next s
  | i :: is, s =>
    match exec (.bcastSend (.visit k i)) s with
    | .next t => visitAll k is t
    | .fault f => .fault f
    | .refused r => .refused r

/-! ## Feeding a receiver -/

/-- Gives the receiver of channel `c` the bytes `bs`, one `RxByte(c, ·)` after another: each is taken by the operation
R111 selects. -/
def feed (c : ChanId) : List Byte → State → Answer
  | [], s => .next s
  | b :: bs, s =>
    match s.chans[c]? with
    | none => .fault (.noSuchChannel c)
    | some ch =>
      match exec (decodeRx s.config.start ch.rxState c (.byte b)) s with
      | .next t => feed c bs t
      | .fault f => .fault f
      | .refused r => .refused r

/-- Gives the sender of channel `c` `n` times `TxReady(c)` for a pending `TX.SEND`. -/
def pump (c : ChanId) : Nat → State → Answer
  | 0, s => .next s
  | n + 1, s =>
    match exec (.txSend c .ready) s with
    | .next t => pump c n t
    | .fault f => .fault f
    | .refused r => .refused r

/-- Gives the sender of channel `c` `n` times `TxReady(c)` for a pending `TX.RAW`. -/
def pumpRaw (c : ChanId) : Nat → State → Answer
  | 0, s => .next s
  | n + 1, s =>
    match exec (.txRaw c .ready) s with
    | .next t => pumpRaw c n t
    | .fault f => .fault f
    | .refused r => .refused r

end Sys2Proof.Machine
end

