-- ==== Sys2Proof/Certificates/Slice0/Obligations.lean ====
section
/-! DEFINITION. The claims about the model, each a proposition, for the provers. A claim about every state is a claim
about every value of the parameters (log entry 5). -/

open Sys2Proof Sys2Proof.Machine

/-! ## Encodings -/

/-- spec/30_encoding.md R111: the receiver's operation is a function of its state, the event and the byte alone; for a
byte the state selects, and in `WAIT_START` whether the byte is the start marker; for a timeout and a reset whether the
state is `PAYLOAD`. -/
def Obligations.ReceiverOperationMap : Prop :=
  ∀ (start b : Byte) (c : ChanId),
    decodeRx start .waitStart c (.byte start) = .rxStart c ∧
    (b ≠ start → decodeRx start .waitStart c (.byte b) = .rxDiscard c b) ∧
    decodeRx start .seq c (.byte b) = .rxSeq c b ∧
    decodeRx start .msgid c (.byte b) = .rxMsgid c b ∧
    decodeRx start .len c (.byte b) = .rxLen c b ∧
    decodeRx start .payload c (.byte b) = .rxPayload c b ∧
    decodeRx start .crc c (.byte b) = .rxCrc c b ∧
    decodeRx start .payload c .timeout = .rxBulkTmo c ∧
    decodeRx start .payload c .chReset = .rxBulkRst c ∧
    (∀ st, st ≠ .payload → decodeRx start st c .timeout = .rxIdleTmo c) ∧
    (∀ st, st ≠ .payload → decodeRx start st c .chReset = .rxIdleRst c)

/-- Words written out from the spec's encodings decode to the operations they stand for: the key bytes of R98's table
(with the channel the model appends, log entry 2), the start marker of RX.START, a frame of R124's example, and words of
the model's own coding (log entry 2), at the default start marker. -/
def Obligations.WrittenWordsDecode : Prop :=
  decodeTableWord 8 0xA5 = some (.rxStart 0) ∧
  decodeTableWord 8 0x0A = some (.envStatus 0 2) ∧
  decodeTableWord 8 0x22 = some (.envCommand 0 2) ∧
  decodeTableWord 8 0x40 = some (.envLogRequest 0 0) ∧
  decodeTableWord 8 0x52 = some (.envMemoryDumpPage 0 2) ∧
  decodeTableWord 40 0x6B000001A5 = some (.frame 0 1 0 [] 0x6B) ∧
  (decodeWord 0xA5 [0x4A, 0x02]).toOption = some (.envMemoryDumpRequest 2 2) ∧
  (decodeWord 0xA5 [0x80, 0x07, 0x01]).toOption = some (.crc8Update 0x07 0x01) ∧
  (decodeWord 0xA5 [0x8F, 0x01, 0x02, 0x00]).toOption = some (.lockAcq (.worker 2) 0) ∧
  (decodeWord 0xA5 [0x94, 0xAC, 0x02, 0x01]).toOption = some (.regClaim 300 1) ∧
  (decodeWord 0xA5 [0x98, 0x00]).toOption = some (.sesCheckTerm 0)

/-- Decoding and encoding agree: at every start marker, every well-formed operation, with every operand at every value
its coding admits, is read back from its word, whatever follows it (the coding is log entry 2's; its numbers are R97's
varints). -/
def Obligations.DecodeOfEncode : Prop :=
  ∀ (start : Byte) (i : Instr) (rest : List Byte), i.wellFormed start = true →
    decode start (encode start i ++ rest) = .ok (i, rest)

/-- spec/30_encoding.md R97: a number below 2^64 is encoded in 1 to 10 bytes, the fewest there are, bit 7 set on all but
the last; decoding adds up the seven-bit groups, drops what lies above bit 63, takes non-minimal encodings too, and
fails on a number that runs past the end or needs an eleventh byte. -/
def Obligations.VarintCoding : Prop :=
  (∀ (v : Nat) (rest : List Byte), v < 2 ^ 64 →
    readVarint (varint v ++ rest) = some (v, (varint v).length) ∧
    1 ≤ (varint v).length ∧ (varint v).length ≤ 10 ∧
    (∀ b ∈ (varint v).dropLast, 128 ≤ b.toNat) ∧ (∀ b ∈ (varint v).getLast?, b.toNat < 128) ∧
    (∀ bs n, readVarint bs = some (v, n) → (varint v).length ≤ n)) ∧
  (∀ (cs rest : List Byte) (last : Byte), (∀ b ∈ cs, 128 ≤ b.toNat) → last.toNat < 128 → cs.length ≤ 9 →
    readVarint (cs ++ last :: rest) = some (groupValue (cs ++ [last]) % 2 ^ 64, cs.length + 1)) ∧
  (∀ cs : List Byte, (∀ b ∈ cs, 128 ≤ b.toNat) → readVarint cs = none) ∧
  (∀ cs rest : List Byte, (∀ b ∈ cs, 128 ≤ b.toNat) → 10 ≤ cs.length → readVarint (cs ++ rest) = none)

/-- spec/30_encoding.md R90, R91 and spec/20_memory.md R61: the frame is start marker, sequence, message-id, length,
payload, CRC, in this order, 5 to 260 bytes; the CRC is that of the bytes at offsets 1 to 3 + L (where no final XOR
applies, R9). -/
def Obligations.FrameLayout : Prop :=
  ∀ (k : Config) (seq msgid : Byte) (payload : List Byte), payload.length ≤ 255 → k.crcXorout = 0 →
    let f := frameBytes k seq msgid payload
    f.length = 5 + payload.length ∧ f[0]? = some k.start ∧ f[1]? = some seq ∧ f[2]? = some msgid ∧
    f[3]? = some (BitVec.ofNat 8 payload.length) ∧ (BitVec.ofNat 8 payload.length).toNat = payload.length ∧
    (∀ i, i < payload.length → f[4 + i]? = payload[i]?) ∧
    f[4 + payload.length]? = some (crc8Block k k.crcInit ((f.drop 1).take (3 + payload.length)))

/-- spec/43_envelope_codec.md R182: what `ENV.ENCODE(c, TAG(v), B)` leaves in `c.tx_buf` for a body of at most 252 bytes
is recognised by pass 1 as `v`, at offset 1 with wire type 2, and pass 2 extracts exactly `B` (at the tags of R98). With
law L1 of the body codec (R181, a premise, log entry 16), `ENV.BODY` over it gives the value that was encoded, each absent
optional field at its documented default. -/
def Obligations.EnvelopeRoundTrip : Prop :=
  ∀ (s : State) (c : ChanId) (ch : Chan) (a : Agent) (v : Variant),
    s.chans[c]? = some ch → s.holds a c = true → s.writePending (s.mediumOf c) = false →
    Memory.wf ch.txBuf = true → s.config.tags = [1, 2, 3, 4, 5, 6, 7, 8, 9, 10] →
    (∀ body : List Byte, body.length ≤ 252 →
      ∃ t ch', exec (.envEncode a c (tagOf s.config v) body) s = .next t ∧ t.chans[c]? = some ch' ∧
        discriminate s.config ch'.txPayload = some (v, 1, 2) ∧ bodyBytes s.config v ch'.txPayload = some body) ∧
    (codecLawful s.config → ∀ x, bodyOk s.config v x = true → (bodyEncode s.config v x).length ≤ 252 →
      ∃ t ch' y, exec (.envEncode a c (tagOf s.config v) (bodyEncode s.config v x)) s = .next t ∧
        t.chans[c]? = some ch' ∧ bodyOk s.config v y = true ∧ bodyFilled s.config v x y ∧
        exec (.envBody v ch'.txPayload) t = .next { t with out := t.out ++ [.result .driver (.bodyOk v y)] })

/-- spec/30_encoding.md R101: a field whose number is no tag, with a value that lies inside the payload, is skipped
without error: pass 1 finds in what follows it what it would find there alone, further on. -/
def Obligations.UnknownFieldsSkipped : Prop :=
  ∀ (k : Config) (n : Nat) (w : BitVec 3) (val rest : List Byte),
    n ≠ 0 → variantOf k n = none → keyOf n w < 2 ^ 64 → skipField w (val ++ rest) = some val.length →
    discriminate k (varint (keyOf n w) ++ (val ++ rest)) =
      (discriminate k rest).map fun (v, off, w') => (v, (varint (keyOf n w)).length + val.length + off, w')

/-! ## CRC -/

/-- spec/40_crc.md R121, R123: both operations answer on every operand: the value is put out and nothing else changes;
the block fold returns the running value for an empty buffer and folds a concatenation piece by piece. -/
def Obligations.CrcOperationsComplete : Prop :=
  ∀ (s : State) (r b : Byte) (buf : List Byte),
    exec (.crc8Update r b) s =
      .next { s with out := s.out ++ [.result .driver (.crc (crcStep s.config.crc r b))] } ∧
    exec (.crc8Block r buf) s =
      .next { s with out := s.out ++ [.result .driver (.crc (crc8Block s.config r buf))] } ∧
    crc8Block s.config r [] = r ∧
    (∀ buf', crc8Block s.config r (buf ++ buf') = crc8Block s.config (crc8Block s.config r buf) buf') ∧
    crc8Block s.config r [b] = crcStep s.config.crc r b

/-- spec/40_crc.md R122 (P1, P2), R127: at the default polynomial the step is a bijection in the byte and in the running
value; it is linear, and depends on the XOR of its operands only. -/
def Obligations.CrcStepLaws : Prop :=
  ((∀ r : Byte, Function.Bijective fun b => crcStep (.poly 0x07 true) r b) ∧
  (∀ b : Byte, Function.Bijective fun r => crcStep (.poly 0x07 true) r b)) ∧
  (∀ r1 r2 b1 b2 : Byte,
    crcStep (.poly 0x07 true) (r1 ^^^ r2) (b1 ^^^ b2) =
      crcStep (.poly 0x07 true) r1 b1 ^^^ crcStep (.poly 0x07 true) r2 b2 ∧
    crcStep (.poly 0x07 true) r1 b1 = crcStep (.poly 0x07 true) 0 (r1 ^^^ b1))

/-- spec/40_crc.md R126: where the step has the properties P1 and P2, two byte sequences that differ in exactly one byte
have different CRCs; so a frame in which one byte among sequence, message-id and payload is altered does not carry its
CRC any more (also with a `CRC_XOROUT` where log entry 15 places it). -/
def Obligations.CrcDetectsOneByte : Prop :=
  ∀ k : Config,
    (∀ r, Function.Injective fun b => crc8Update k r b) → (∀ b, Function.Injective fun r => crc8Update k r b) →
    (∀ (init x y : Byte) (pre post : List Byte), x ≠ y →
      crc8Block k init (pre ++ x :: post) ≠ crc8Block k init (pre ++ y :: post)) ∧
    (∀ seq seq' msgid payload, seq ≠ seq' → frameCrc k seq msgid payload ≠ frameCrc k seq' msgid payload) ∧
    (∀ seq msgid msgid' payload, msgid ≠ msgid' → frameCrc k seq msgid payload ≠ frameCrc k seq msgid' payload) ∧
    (∀ seq msgid pre x y post, x ≠ y →
      frameCrc k seq msgid (pre ++ x :: post) ≠ frameCrc k seq msgid (pre ++ y :: post))

/-! ## Receiver -/

/-- spec/41_rx_transport.md R131, R132, R133, R141: the start marker starts the accumulator and is not folded; the
sequence and message-id bytes are recorded and folded, whatever they are; a discarded byte writes no register. None has
a result or a signal. -/
def Obligations.RxHeaderSteps : Prop :=
  ∀ (s : State) (c : ChanId) (ch : Chan) (b : Byte), s.chans[c]? = some ch →
    (∃ t ch', exec (.rxStart c) s = .next t ∧ RxQuiet s t c ch ch' ∧ ch'.rxState = .seq ∧
      ch'.rxCrc = s.config.crcInit ∧ ch'.rxSeq = ch.rxSeq ∧ ch'.rxMsgid = ch.rxMsgid ∧ ch'.rxLen = ch.rxLen ∧
      ch'.rxCnt = ch.rxCnt ∧ RxBufKept ch ch') ∧
    (∃ t ch', exec (.rxSeq c b) s = .next t ∧ RxQuiet s t c ch ch' ∧ ch'.rxState = .msgid ∧ ch'.rxSeq = b ∧
      ch'.rxCrc = crc8Update s.config ch.rxCrc b ∧ ch'.rxMsgid = ch.rxMsgid ∧ ch'.rxLen = ch.rxLen ∧
      ch'.rxCnt = ch.rxCnt ∧ RxBufKept ch ch') ∧
    (∃ t ch', exec (.rxMsgid c b) s = .next t ∧ RxQuiet s t c ch ch' ∧ ch'.rxState = .len ∧ ch'.rxMsgid = b ∧
      ch'.rxCrc = crc8Update s.config ch.rxCrc b ∧ ch'.rxSeq = ch.rxSeq ∧ ch'.rxLen = ch.rxLen ∧
      ch'.rxCnt = ch.rxCnt ∧ RxBufKept ch ch') ∧
    (∃ t ch', exec (.rxDiscard c b) s = .next t ∧ RxQuiet s t c ch ch' ∧ ReceiverKept ch ch')

/-- spec/41_rx_transport.md R134, R135: the length byte is recorded and folded, the count starts at 0, and a zero length
skips the payload; a payload byte is stored at the count, folded and counted, and the last one leads to `CRC`. -/
def Obligations.RxLengthAndPayloadSteps : Prop :=
  ∀ (s : State) (c : ChanId) (ch : Chan) (b : Byte), s.chans[c]? = some ch →
    (∃ t ch', exec (.rxLen c b) s = .next t ∧ RxQuiet s t c ch ch' ∧
      ch'.rxState = (if b = 0 then .crc else .payload) ∧ ch'.rxLen = b ∧ ch'.rxCnt = 0 ∧
      ch'.rxCrc = crc8Update s.config ch.rxCrc b ∧ ch'.rxSeq = ch.rxSeq ∧ ch'.rxMsgid = ch.rxMsgid ∧
      RxBufKept ch ch') ∧
    (ch.rxState = .payload → ch.rxCnt < ch.rxLen.toNat → Memory.wf ch.rxBuf = true →
      ∃ t ch', exec (.rxPayload c b) s = .next t ∧ RxQuiet s t c ch ch' ∧
        Memory.read ch'.rxBuf ch.rxCnt = b ∧
        (∀ i, i ≠ ch.rxCnt → Memory.read ch'.rxBuf i = Memory.read ch.rxBuf i) ∧
        ch'.rxCrc = crc8Update s.config ch.rxCrc b ∧ ch'.rxCnt = ch.rxCnt + 1 ∧
        ch'.rxState = (if ch.rxCnt + 1 = ch.rxLen.toNat then .crc else .payload) ∧
        ch'.rxSeq = ch.rxSeq ∧ ch'.rxMsgid = ch.rxMsgid ∧ ch'.rxLen = ch.rxLen)

/-- spec/41_rx_transport.md R136: the received CRC byte is compared with the accumulator: a match signals `NORMAL` and
delivers the frame, a mismatch signals `FAIL` and fails with cause `CRC`; either way the receiver is in `WAIT_START` and
its other registers keep their values. That the accumulator is compared through `CRC_XOROUT`, where this is not R9's 0, is
the model's choice (log entry 15, PRESUMED). -/
def Obligations.RxCrcStep : Prop :=
  ∀ (s : State) (c : ChanId) (ch : Chan) (b : Byte), s.chans[c]? = some ch →
    (b = crcFinal s.config ch.rxCrc →
      ∃ t ch', exec (.rxCrc c b) s = .next t ∧
        RxReturns s t c ch ch' (some .normal)
          (.rxOk ch.rxSeq ch.rxMsgid ch.rxLen (Memory.readN ch.rxBuf 0 ch.rxLen.toNat)) ∧
        ch'.rxState = .waitStart) ∧
    (b ≠ crcFinal s.config ch.rxCrc →
      ∃ t ch', exec (.rxCrc c b) s = .next t ∧ RxReturns s t c ch ch' (some .fail) (.rxFail .crc) ∧
        ch'.rxState = .waitStart) ∧
    (s.config.crcXorout = 0 → crcFinal s.config ch.rxCrc = ch.rxCrc)

/-- spec/41_rx_transport.md R137, R139 (and 60_exceptions.md R272): an idle timeout and an idle channel reset return
`RX_NO_DATA` without a signal; the state is kept, or goes to `WAIT_START` if `IDLE_KEEPS_STATE` is false. -/
def Obligations.RxIdleSteps : Prop :=
  ∀ (s : State) (c : ChanId) (ch : Chan), s.chans[c]? = some ch →
    ∀ i ∈ [Instr.rxIdleTmo c, Instr.rxIdleRst c],
      ∃ t ch', exec i s = .next t ∧ RxReturns s t c ch ch' none .rxNoData ∧
        (s.config.idleKeepsState = true → ch'.rxState = ch.rxState) ∧
        (s.config.idleKeepsState = false → ch'.rxState = .waitStart)

/-- spec/41_rx_transport.md R138, R140 (and 60_exceptions.md R273): a timeout or a channel reset in the payload signals
`FAIL` and fails with cause `MIDFRAME`; the receiver is in `WAIT_START`, its other registers keep their values. -/
def Obligations.RxBulkFailures : Prop :=
  ∀ (s : State) (c : ChanId) (ch : Chan), s.chans[c]? = some ch →
    ∀ i ∈ [Instr.rxBulkTmo c, Instr.rxBulkRst c],
      ∃ t ch', exec i s = .next t ∧ RxReturns s t c ch ch' (some .fail) (.rxFail .midframe) ∧
        ch'.rxState = .waitStart

/-- spec/41_rx_transport.md R142: with the termination flag seen outside `PAYLOAD` the receive returns `RX_NO_DATA` and
leaves the receiver as it is; otherwise it waits for an event. While the read is pending the worker has no step, so the flag
is looked at once per outer iteration. That the test and the read are two steps is log entry 10 (DEDUCED); the place of the
wait is the model's own register, and the operation alone tests the flag wherever its worker stands (log entry 9, DESIGN
CHOICE). -/
def Obligations.RxReceiveLoop : Prop :=
  ∀ (s : State) (c : ChanId) (ch : Chan), s.chans[c]? = some ch →
    (ch.sesTermReq = true → ch.rxState ≠ .payload →
      ∃ t ch', exec (.rxReceive c) s = .next t ∧ RxReturns s t c ch ch' none .rxNoData ∧
        ch'.rxState = ch.rxState) ∧
    (ch.sesTermReq = false ∨ ch.rxState = .payload →
      exec (.rxReceive c) s = .next (s.setChan c { ch with ctl := .recvRead })) ∧
    (ch.ctl = .recvRead → workerTurn s c = .answer (.next s))

/-- spec/41_rx_transport.md R143: the transition table: in every state, on every event, the operation R111 selects leads
to the cell's next state, with the cell's signal and result, and no other output. Where `CRC_XOROUT` is not R9's 0, the
row `CRC` compares through it, which is the model's choice (log entry 15, PRESUMED). -/
def Obligations.RxTransitionTable : Prop :=
  ∀ (s : State) (c : ChanId) (ch : Chan) (e : RxEvent), s.chans[c]? = some ch →
    (ch.rxState = .payload → ch.rxCnt < ch.rxLen.toNat) →
    ∃ t ch', exec (decodeRx s.config.start ch.rxState c e) s = .next t ∧ t.chans[c]? = some ch' ∧
      ch'.rxState = (rxTable s.config ch e).1 ∧
      t.out = s.out ++
        ((rxTable s.config ch e).2.2.toList.map .signal ++
         (rxTable s.config ch e).2.1.toList.map (.result (.worker c)))

/-- spec/41_rx_transport.md R144 (a), (b): every step keeps the agreement of the receivers' registers with their states
(in states whose buffers are canonical). -/
def Obligations.ReceiverInvariantKept : Prop :=
  ∀ s t : State, s.memInv → s.rxInv → step s = .next t → t.rxInv

/-- spec/41_rx_transport.md R144 (d): from the state `RX.START` leaves, a frame's result comes after exactly `4 + L`
further bytes, with its signal, and no output comes before it. -/
def Obligations.ResultAfterExactly : Prop :=
  ∀ (s : State) (c : ChanId) (ch : Chan) (seq msgid len crc : Byte) (payload : List Byte),
    s.chans[c]? = some ch → ch.rxState = .seq → payload.length = len.toNat →
    (∀ n, n < 4 + payload.length →
      ∃ t, feed c ((seq :: msgid :: len :: (payload ++ [crc])).take n) s = .next t ∧ t.out = s.out) ∧
    (∃ t r l, feed c (seq :: msgid :: len :: (payload ++ [crc])) s = .next t ∧
      t.out = s.out ++ [.signal l, .result (.worker c) r] ∧
      ((l = .normal ∧ ∃ p, r = .rxOk seq msgid len p) ∨ (l = .fail ∧ r = .rxFail .crc)))

/-- spec/42_tx_transport.md R163: the frame a `TX.SEND` of one machine emits, delivered unaltered to a receiver in
`WAIT_START` of another machine with the same parameters, yields `RX_OK` with the same sequence, message-id, length and
payload, and the signal `NORMAL` (the place of a `CRC_XOROUT` that is not 0: log entry 15). -/
def Obligations.LoopbackDelivers : Prop :=
  ∀ (s r : State) (c d : ChanId) (ch dh : Chan) (msgid : Byte),
    s.chans[c]? = some ch → r.chans[d]? = some dh → r.config = s.config → dh.rxState = .waitStart →
    Memory.wf dh.rxBuf = true →
    ∃ t dh', feed d (ch.txFrame s.config msgid) r = .next t ∧ t.chans[d]? = some dh' ∧
      t.out = r.out ++ [.signal .normal, .result (.worker d) (.rxOk ch.txSeq msgid ch.txLen ch.txPayload)] ∧
      dh'.rxState = .waitStart ∧ dh'.rxPayload = ch.txPayload

/-- spec/41_rx_transport.md R145: a receiver in `WAIT_START` that is given a frame with a wrong CRC, its start marker
and length intact, and then a well-formed frame, fails the first and decodes the second (the place of a `CRC_XOROUT` that
is not 0: log entry 15). -/
def Obligations.GoodFrameAfterCorruptOne : Prop :=
  ∀ (s : State) (c : ChanId) (ch : Chan) (seq msgid crc seq' msgid' : Byte) (payload payload' : List Byte),
    s.chans[c]? = some ch → ch.rxState = .waitStart → Memory.wf ch.rxBuf = true →
    payload.length ≤ 255 → payload'.length ≤ 255 → crc ≠ frameCrc s.config seq msgid payload →
    ∃ t ch', feed c (wireFrame s.config.start seq msgid payload crc ++ frameBytes s.config seq' msgid' payload') s =
        .next t ∧
      t.chans[c]? = some ch' ∧ ch'.rxState = .waitStart ∧
      t.out = s.out ++
        [.signal .fail, .result (.worker c) (.rxFail .crc), .signal .normal,
         .result (.worker c) (.rxOk seq' msgid' (BitVec.ofNat 8 payload'.length) payload')]

/-- spec/60_exceptions.md R281, R287 and spec/42_tx_transport.md R168: outside `RECEIVE` a byte offered to the receiver
stays with the device, and a timeout or a reset has no step; `TxReady`, `TxTimeout` and `ChReset` reach the sender only while a write is pending. While
one is, its caller is blocked: the worker or the broadcast has no step of its own, and a handler that waits for its reply
issues no command and does not return (in states in which locks and agents agree). That a `Reply`, a `Broadcast` or a
`HandlerDone` of a handler so blocked is ignored is log entry 34 (DEDUCED): the rules say that it is blocked. -/
def Obligations.EventsWithoutPendingAccess : Prop :=
  (∀ (s : State) (c : ChanId) (ch : Chan) (b : Byte) (rest : List Stim), s.chans[c]? = some ch →
    ch.sesPhase ≠ .receive →
    (s.script = .rxByte c b :: rest →
      step s = .next ({ s with script := rest }.setChan c { ch with rxs := ch.rxs ++ [b] })) ∧
    (s.script = .rxTimeout c :: rest → step s = .next { s with script := rest }) ∧
    (s.script = .chResetRx c :: rest → step s = .next { s with script := rest })) ∧
  (∀ (s : State) (c : ChanId) (ch : Chan) (rest : List Stim), s.chans[c]? = some ch → ch.txJob = .none →
    s.script = .txReady c :: rest ∨ s.script = .txTimeout c :: rest ∨ s.script = .chResetTx c :: rest →
    step s = .next { s with script := rest }) ∧
  (∀ (s : State) (c : ChanId) (ch : Chan), s.lockInv → s.chans[c]? = some ch →
    (∀ d, ch.txJob.caller = some (.worker d) →
      workerTurn s d = .answer (.next s) ∧ handlerDoneInput s d = .answer (.next s) ∧
      (∀ tag body, exec (.sesSend d tag body) s = .next s ∧
        exec (.bcastSend (.call (.handler d) tag body)) s = .next s)) ∧
    (∀ k i, ch.txJob.caller = some (.bcast k) → bcastTurn s k i = .answer (.next s)))

/-- spec/20_memory.md R73 (b) and spec/10_state.md R29: the receiver of a channel is touched by its own operations and by
the start of its session only; the sequence counter of a channel is written by a `TX.SEND` on that channel, which adds
one, and by the start of its session, which puts it back to 0, and by no other operation. -/
def Obligations.RegisterWriters : Prop :=
  (∀ (i : Instr) (s t : State) (c : ChanId) (ch : Chan), exec i s = .next t → s.chans[c]? = some ch →
    touchesReceiver c i = false → ∃ ch' : Chan, t.chans[c]? = some ch' ∧ ReceiverKept ch ch') ∧
  (∀ (i : Instr) (s t : State) (c : ChanId) (ch : Chan), exec i s = .next t → s.chans[c]? = some ch →
    ∃ ch' : Chan, t.chans[c]? = some ch' ∧
      (ch'.txSeq = ch.txSeq ∨
       (∃ a msgid, i = .txSend c (.call a msgid) ∧ ch'.txSeq = ch.txSeq + 1) ∨
       (i = .sesStart c .init ∧ ch'.txSeq = 0)))

/-! ## Sender -/

/-- spec/42_tx_transport.md R161, R162, R163: `TX.SEND` called by the holder of the lock emits the frame of its sequence
counter, message-id, length and buffer, one byte for each `TxReady`, in order; after the last byte it returns `TX_OK`.
The counter has advanced by one, the buffer and the receiver are untouched. That the call is a step before the first byte
is log entry 18; that the last byte is the accumulator through `CRC_XOROUT`, where this is not R9's 0, is the model's
choice (log entry 15, PRESUMED). -/
def Obligations.TxSendEmitsFrame : Prop :=
  ∀ (s : State) (c : ChanId) (ch : Chan) (a : Agent) (msgid : Byte) (n : Nat), s.chans[c]? = some ch →
    s.holds a c = true → s.writePending (s.mediumOf c) = false → n ≤ 5 + ch.txLen.toNat →
    ∃ t0 t ch', exec (.txSend c (.call a msgid)) s = .next t0 ∧ pump c n t0 = .next t ∧
      t.chans[c]? = some ch' ∧ CallKept s t c a ∧ ReceiverKept ch ch' ∧ WorkerKept ch ch' ∧ ch'.rxs = ch.rxs ∧
      TxBufKept ch ch' ∧ ch'.txLen = ch.txLen ∧ ch'.txSeq = ch.txSeq + 1 ∧ ch'.txHdrSeq = ch.txSeq ∧
      ch'.txHdrMsgid = msgid ∧
      t.out = s.out ++
        (((ch.txFrame s.config msgid).take n).map (.emit c) ++
         if n = 5 + ch.txLen.toNat then [.result a .txOk] else []) ∧
      (n < 5 + ch.txLen.toNat → ch'.txJob = .send a ∧ ch'.txPhase ≠ .idle) ∧
      (n = 5 + ch.txLen.toNat → ch'.txJob = .none ∧ ch'.txPhase = .idle)

/-- spec/42_tx_transport.md R164: a timeout or a channel reset while a write of `TX.SEND` or `TX.RAW` is pending ends it:
`FAIL` is signalled, the caller gets `TX_FAIL`, nothing more is emitted, the sequence counter keeps its value and the
receiver is untouched; it can come after every strict prefix of the frame, which stays on the stream. -/
def Obligations.WriteAborts : Prop :=
  (∀ (s : State) (c : ChanId) (ch : Chan) (a : Agent), s.chans[c]? = some ch →
    ∀ i, (ch.txJob = .send a ∧ i ∈ [Instr.txSend c .timeout, Instr.txSend c .chReset]) ∨
        ((∃ rest, ch.txJob = .raw a rest) ∧ i ∈ [Instr.txRaw c .timeout, Instr.txRaw c .chReset]) →
      ∃ t ch', exec i s = .next t ∧ t.chans[c]? = some ch' ∧ CallKept s t c a ∧
        t.out = s.out ++ [.signal .fail, .result a .txFail] ∧ ch'.txPhase = .idle ∧ ch'.txJob = .none ∧
        ch'.txSeq = ch.txSeq ∧ ch'.txLen = ch.txLen ∧ ch'.txIdx = ch.txIdx ∧ ch'.txCrc = ch.txCrc ∧
        ch'.txHdrSeq = ch.txHdrSeq ∧ ch'.txHdrMsgid = ch.txHdrMsgid ∧ TxBufKept ch ch' ∧ ReceiverKept ch ch' ∧
        WorkerKept ch ch' ∧ ch'.rxs = ch.rxs) ∧
  (∀ (s : State) (c : ChanId) (ch : Chan) (a : Agent) (msgid : Byte) (n : Nat), s.chans[c]? = some ch →
    s.holds a c = true → s.writePending (s.mediumOf c) = false → n ≤ 4 + ch.txLen.toNat →
    ∃ t0 t1 t, exec (.txSend c (.call a msgid)) s = .next t0 ∧ pump c n t0 = .next t1 ∧
      exec (.txSend c .timeout) t1 = .next t ∧
      t.out = s.out ++
        (((ch.txFrame s.config msgid).take n).map (.emit c) ++ [.signal .fail, .result a .txFail]))

/-- spec/42_tx_transport.md R166: `TX.RAW` called by the holder of the lock emits the bytes it is given, one for each
`TxReady`, in order, and returns `TX_OK` after the last; of the channel's registers only `tx_phase` is written. R166 has
frames of 5 to 260 bytes: that byte strings of other lengths are written alike, the empty one at once, and the model's own
note of the pending write, are log entry 18 (DESIGN CHOICE). -/
def Obligations.TxRawEmitsFrame : Prop :=
  ∀ (s : State) (c : ChanId) (ch : Chan) (a : Agent) (frame : List Byte) (n : Nat), s.chans[c]? = some ch →
    s.holds a c = true → s.writePending (s.mediumOf c) = false → n ≤ frame.length →
    ∃ t0 t ch', exec (.txRaw c (.call a frame)) s = .next t0 ∧ pumpRaw c n t0 = .next t ∧
      t.chans[c]? = some ch' ∧ CallKept s t c a ∧ ReceiverKept ch ch' ∧ WorkerKept ch ch' ∧ ch'.rxs = ch.rxs ∧
      TxBufKept ch ch' ∧ ch'.txLen = ch.txLen ∧ ch'.txSeq = ch.txSeq ∧ ch'.txIdx = ch.txIdx ∧ ch'.txCrc = ch.txCrc ∧
      ch'.txHdrSeq = ch.txHdrSeq ∧ ch'.txHdrMsgid = ch.txHdrMsgid ∧
      t.out = s.out ++
        ((frame.take n).map (.emit c) ++ if n = frame.length then [.result a .txOk] else []) ∧
      (n < frame.length → ch'.txJob = .raw a (frame.drop n) ∧ ch'.txPhase ≠ .idle) ∧
      (n = frame.length → ch'.txJob = .none ∧ ch'.txPhase = .idle)

/-- spec/42_tx_transport.md R162, R163: every step keeps the agreement of the senders' registers with their phases: the
accumulator holds the CRC of the bytes emitted after the start marker (in states where the locks agree with the
agents). -/
def Obligations.SenderInvariantKept : Prop :=
  ∀ s t : State, s.lockInv → s.txInv → step s = .next t → t.txInv

/-! ## Locks -/

/-- spec/20_memory.md R75: a free lock is taken, a held one makes the agent wait; the holder frees it; no other agent
can. No register of a receiver or a sender is written and nothing is emitted or signalled. That the wait is a step that
changes nothing is log entry 12, and that an agent that does not hold the lock is refused its release is log entry 25
(both DESIGN CHOICE). -/
def Obligations.LockOperations : Prop :=
  ∀ (s : State) (a : Agent) (m : MediumId),
    (s.locks[m]? = some .free →
      ∃ t, exec (.lockAcq a m) s = .next t ∧ t.locks = s.locks.set m (.held a) ∧ t.out = s.out ∧ WorldKept s t ∧
        t.reg = s.reg ∧ t.nextBc = s.nextBc ∧ ((∀ k, a ≠ .bcast k) → t.bcasts = s.bcasts) ∧
        ∀ (c : ChanId) (ch : Chan), s.chans[c]? = some ch → ∃ ch' : Chan, t.chans[c]? = some ch' ∧ ChanKeptButCtl ch ch') ∧
    (∀ b, s.locks[m]? = some (.held b) → exec (.lockAcq a m) s = .next s) ∧
    (s.locks[m]? = some (.held a) → s.writePending m = false →
      ∃ t, exec (.lockRel a m) s = .next t ∧ t.locks = s.locks.set m .free ∧ WorldKept s t ∧ t.reg = s.reg ∧
        t.nextBc = s.nextBc ∧ t.signals = s.signals ∧ (∀ c, t.txs c = s.txs c) ∧
        ((∀ k, a ≠ .bcast k) → t.bcasts = s.bcasts) ∧
        ∀ (c : ChanId) (ch : Chan), s.chans[c]? = some ch → ∃ ch' : Chan, t.chans[c]? = some ch' ∧ ReceiverKept ch ch' ∧ SenderKept ch ch' ∧
          ch'.sesSlot = ch.sesSlot ∧ ch'.sesTermReq = ch.sesTermReq ∧ ch'.sesLastStatus = ch.sesLastStatus) ∧
    (∀ l, s.locks[m]? = some l → l ≠ .held a → exec (.lockRel a m) s = .refused (.notLockHolder a m))

/-- spec/44_registry_broadcast.md R211 and spec/20_memory.md R71, R75: every step keeps the agreement of locks and
agents: a worker or broadcast inside a critical section holds that medium's lock and no other, outside it holds none, and
a write is pending only for the holder, one for each medium at most. The driver, which no rule names as an agent
(spec/60_exceptions.md R286, log entry 13), never comes to hold a lock, to wait for a write or to call a broadcast. -/
def Obligations.LockInvariantKept : Prop :=
  (∀ s t : State, s.lockInv → step s = .next t → t.lockInv) ∧
  (∀ s t : State, s.driverIdle → step s = .next t → t.driverIdle)

/-- spec/20_memory.md R60 (2), R69, R70: outputs are never taken back; a step emits at most one byte, and only on a
channel whose medium's lock the agent of the pending write holds. -/
def Obligations.EmitsOnlyUnderLock : Prop :=
  ∀ s t : State, s.lockInv → step s = .next t →
    ∃ l, t.out = s.out ++ l ∧
      (l.filter fun o => match o with | .emit _ _ => true | _ => false).length ≤ 1 ∧
      ∀ c b, .emit c b ∈ l → ∃ ch a, s.chans[c]? = some ch ∧ ch.txJob.caller = some a ∧
        s.locks[s.mediumOf c]? = some (.held a)

/-! ## Envelope codec -/

/-- spec/43_envelope_codec.md R176: an unknown tag, and then an envelope longer than 255 bytes, fail with the signal
`FAIL` and write nothing; otherwise the envelope is in the send buffer, its length in `tx_len`, and the rest of the
machine is untouched. -/
def Obligations.EncodeWritesEnvelope : Prop :=
  ∀ (s : State) (c : ChanId) (ch : Chan) (a : Agent) (tag : Nat) (body : List Byte), s.chans[c]? = some ch →
    s.holds a c = true → s.writePending (s.mediumOf c) = false → Memory.wf ch.txBuf = true →
    ∃ t ch', exec (.envEncode a c tag body) s = .next t ∧ t.chans[c]? = some ch' ∧ CallKept s t c a ∧
      ReceiverKept ch ch' ∧ WorkerKept ch ch' ∧ ch'.rxs = ch.rxs ∧ ch'.txSeq = ch.txSeq ∧
      ch'.txPhase = ch.txPhase ∧ ch'.txIdx = ch.txIdx ∧ ch'.txCrc = ch.txCrc ∧ ch'.txHdrSeq = ch.txHdrSeq ∧
      ch'.txHdrMsgid = ch.txHdrMsgid ∧ ch'.txJob = ch.txJob ∧
      (variantOf s.config tag = none →
        TxBufKept ch ch' ∧ ch'.txLen = ch.txLen ∧
        t.out = s.out ++ [.signal .fail, .result a (.encFail .unknownTag)]) ∧
      (variantOf s.config tag ≠ none → 255 < (envelope tag body).length →
        TxBufKept ch ch' ∧ ch'.txLen = ch.txLen ∧
        t.out = s.out ++ [.signal .fail, .result a (.encFail .tooLong)]) ∧
      (variantOf s.config tag ≠ none → (envelope tag body).length ≤ 255 →
        ch'.txLen.toNat = (envelope tag body).length ∧
        (∀ i x, (envelope tag body)[i]? = some x → Memory.read ch'.txBuf i = x) ∧
        (∀ i, (envelope tag body).length ≤ i → Memory.read ch'.txBuf i = Memory.read ch.txBuf i) ∧
        t.out = s.out ++ [.result a .encOk])

/-- spec/43_envelope_codec.md R178: pass 1 answers on every payload, writes no state and raises no signal; the end of
the payload, field number 0, and a wire type that cannot be skipped give `none`. -/
def Obligations.DiscriminateReadsOnly : Prop :=
  (∀ (s : State) (payload : List Byte),
    (∀ v off w, discriminate s.config payload = some (v, off, w) →
      exec (.envDiscriminate payload) s = .next { s with out := s.out ++ [.result .driver (.found v off w)] }) ∧
    (discriminate s.config payload = none →
      exec (.envDiscriminate payload) s = .next { s with out := s.out ++ [.result .driver .noMatch] })) ∧
  (∀ (k : Config) (n : Nat) (w : BitVec 3) (rest : List Byte), keyOf n w < 2 ^ 64 →
    discriminate k [] = none ∧
    (∀ v, variantOf k n = some v →
      discriminate k (varint (keyOf n w) ++ rest) = some (v, (varint (keyOf n w)).length, w)) ∧
    (n = 0 → discriminate k (varint (keyOf n w) ++ rest) = none) ∧
    (variantOf k n = none → w = 3 ∨ w = 4 ∨ w = 6 ∨ w = 7 → discriminate k (varint (keyOf n w) ++ rest) = none))

/-- spec/43_envelope_codec.md R180: pass 2 succeeds exactly when pass 1 finds the variant, with wire type 2, the body
lies inside the payload and the body codec accepts it; it then returns the value, which is one of the type `Body v` (R181); otherwise it signals `FAIL` and
fails.
No state is written. -/
def Obligations.BodyDecodeResult : Prop :=
  ∀ (s : State) (v : Variant) (payload : List Byte),
    (∀ off n p x, discriminate s.config payload = some (v, off, 2) →
      readVarint (payload.drop off) = some (n, p) → off + p + n ≤ payload.length →
      bodyDecode s.config v (((payload.drop off).drop p).take n) = some x →
      bodyOk s.config v x = true ∧
      exec (.envBody v payload) s = .next { s with out := s.out ++ [.result .driver (.bodyOk v x)] }) ∧
    ((∀ off n p x, discriminate s.config payload = some (v, off, 2) →
      readVarint (payload.drop off) = some (n, p) → off + p + n ≤ payload.length →
      bodyDecode s.config v (((payload.drop off).drop p).take n) ≠ some x) →
      exec (.envBody v payload) s = .next { s with out := s.out ++ [.signal .fail, .result .driver .bodyFail] })

/-- spec/45_session_worker.md R227: the dispatch table. A payload without a variant, an outbound-only variant, and a
memory-dump request with the flag off are dropped silently, without pass 2; `TimeReference`, `Command`, `ParamRequest`,
`ParamSet` and, with the flag on, `MemoryDumpRequest` are decoded and handed to their handler, or dropped with the fault
of pass 2; `LogRequest` is decoded and its value discarded. That the ten key rows of the opcode table, as operations, mean these rows
is log entry 20 (DEDUCED), and the place at which the worker waits for its handler is log entry 9 (DESIGN CHOICE). -/
def Obligations.DispatchTable : Prop :=
  ∀ (s : State) (c : ChanId) (ch : Chan) (w : BitVec 3), s.chans[c]? = some ch →
    (discriminate s.config ch.rxPayload = none →
      ∃ t ch', exec (.sesDispatch c .pass1) s = .next t ∧ DispatchEnds s t c ch ch' []) ∧
    (∀ i ∈ [Instr.envStatus c w, Instr.envStatusText c w, Instr.envParamValue c w, Instr.envMemoryDumpPage c w],
      ∃ t ch', exec i s = .next t ∧ DispatchEnds s t c ch ch' []) ∧
    (s.cfg.dbgMemdump = false →
      ∃ t ch', exec (.envMemoryDumpRequest c w) s = .next t ∧ DispatchEnds s t c ch ch' []) ∧
    (∀ v i, (v, i) ∈
        [(Variant.timeReference, Instr.envTimeReference c w), (.command, .envCommand c w),
         (.paramRequest, .envParamRequest c w), (.paramSet, .envParamSet c w)] ∨
        (v = .memoryDumpRequest ∧ i = .envMemoryDumpRequest c w ∧ s.cfg.dbgMemdump = true) →
      (∀ x, w = 2 → decodeBody s.config v ch.rxPayload = some x →
        ∃ t ch', exec i s = .next t ∧ WorkerOnly s t c ch ch' ∧ WorkerKept ch ch' ∧
          ch'.ctl = .handler (.dispatch v) ∧
          t.out = s.out ++ [.result (.worker c) (.bodyOk v x), .dispatch c v x]) ∧
      (w ≠ 2 ∨ decodeBody s.config v ch.rxPayload = none →
        ∃ t ch', exec i s = .next t ∧
          DispatchEnds s t c ch ch' [.signal .fail, .result (.worker c) .bodyFail])) ∧
    (∀ x, w = 2 → decodeBody s.config .logRequest ch.rxPayload = some x →
      ∃ t ch', exec (.envLogRequest c w) s = .next t ∧
        DispatchEnds s t c ch ch' [.result (.worker c) (.bodyOk .logRequest x)]) ∧
    (w ≠ 2 ∨ decodeBody s.config .logRequest ch.rxPayload = none →
      ∃ t ch', exec (.envLogRequest c w) s = .next t ∧
        DispatchEnds s t c ch ch' [.signal .fail, .result (.worker c) .bodyFail])

/-! ## Registry and broadcast -/

/-- spec/44_registry_broadcast.md R201: one test-and-set of `REG.CLAIM`: an empty slot is claimed; a live one sends the
worker on to the next; after the last one the start fails, without a signal. The scan of a start claims the first empty
slot in index order. R201 has it as a precondition that the worker holds no slot; that one with a slot is refused by name
is log entry 25 (DESIGN CHOICE). -/
def Obligations.ClaimScan : Prop :=
  (∀ (s : State) (c : ChanId) (ch : Chan) (i : SlotId), s.chans[c]? = some ch →
    (ch.sesSlot = none → s.reg[i]? = some none →
      ∃ t ch', exec (.regClaim c i) s = .next t ∧ t.chans[c]? = some ch' ∧ OthersKept s t c ∧ WorldKept s t ∧
        t.reg = s.reg.set i (some c) ∧ t.locks = s.locks ∧ t.bcasts = s.bcasts ∧ ch'.sesSlot = some i ∧
        ch'.sesPhase = ch.sesPhase ∧ ch'.sesTermReq = ch.sesTermReq ∧ ReceiverKept ch ch' ∧ SenderKept ch ch' ∧
        t.out = s.out ++ [.result (.worker c) (.claimOk i)] ∧
        ∀ j, ch.ctl = .startClaim j → ch'.ctl = .startEnter) ∧
    (∀ d, ch.sesSlot = none → s.reg[i]? = some (some d) → i + 1 < s.reg.length →
      ∃ t ch', exec (.regClaim c i) s = .next t ∧ WorkerOnly s t c ch ch' ∧ WorkerKept ch ch' ∧
        (ch.ctl = .startClaim i → t.out = s.out ∧ ch'.ctl = .startClaim (i + 1))) ∧
    (∀ d, ch.sesSlot = none → s.reg[i]? = some (some d) → i + 1 = s.reg.length →
      ∃ t ch', exec (.regClaim c i) s = .next t ∧ WorkerOnly s t c ch ch' ∧ WorkerKept ch ch' ∧
        t.out = s.out ++ [.result (.worker c) .startFail] ∧ (ch.ctl = .startClaim i → ch'.ctl = .run)) ∧
    (∀ j, ch.sesSlot = some j → exec (.regClaim c i) s = .refused (.slotAlreadyHeld c))) ∧
  (∀ (s : State) (c : ChanId) (ch : Chan) (pre post : List (Option ChanId)), s.chans[c]? = some ch →
    ch.ctl = .startClaim 0 → ch.sesSlot = none → s.reg = pre ++ none :: post → (∀ r ∈ pre, r ≠ none) →
    ∃ t ch', turns c (pre.length + 1) s = .next t ∧ t.chans[c]? = some ch' ∧ t.reg = pre ++ some c :: post ∧
      ch'.sesSlot = some pre.length ∧ ch'.ctl = .startEnter ∧
      t.out = s.out ++ [.result (.worker c) (.claimOk pre.length)])

/-- spec/44_registry_broadcast.md R202: `REG.CLEAR` empties the worker's own slot and its reference to it, in one step,
and does nothing for a worker without a slot. -/
def Obligations.ClearOwnSlot : Prop :=
  ∀ (s : State) (c : ChanId) (ch : Chan), s.chans[c]? = some ch →
    (ch.sesSlot = none → exec (.regClear c) s = .next s) ∧
    (∀ i, ch.sesSlot = some i →
      ∃ t ch', exec (.regClear c) s = .next t ∧ t.chans[c]? = some ch' ∧ OthersKept s t c ∧ WorldKept s t ∧
        t.reg = s.reg.set i none ∧ t.locks = s.locks ∧ t.bcasts = s.bcasts ∧ t.nextBc = s.nextBc ∧
        t.out = s.out ∧ ch' = { ch with sesSlot := none })

/-- spec/10_state.md R33, R38: every step keeps the agreement of the registry and the workers: `ses_slot = some i` for a
channel exactly when slot `i` holds that channel, so that no channel is in two slots. -/
def Obligations.RegistryInvariantKept : Prop :=
  ∀ s t : State, s.regInv → step s = .next t → t.regInv

/-- spec/44_registry_broadcast.md R203 to R206, R209: the broadcast's own steps. The call begins a context with every
slot still to visit; a visit reads the slot at that moment and goes to its session's lock, or on; with `BCAST_REFRAME` the
encoded payload is copied into the session's send buffer. When the lock has been released after a send, the fan-out goes
on, with `TX_FAIL` noted if the send failed; where the encode failed, the release ends the broadcast with `ENC_FAIL`; after
the last visit it returns its result. A handler that called goes on where it was blocked. The listing for the driver as
a caller, which no step runs, is log entry 13, and the context's number is log entry 14 (DESIGN CHOICE). -/
def Obligations.BroadcastSteps : Prop :=
  ∀ (s : State),
    (∀ tag body, ∃ t, exec (.bcastSend (.call .driver tag body)) s = .next t ∧
      t = { s with bcasts := s.bcasts ++ [newBcast s .driver tag body], nextBc := s.nextBc + 1 } ∧
      (newBcast s .driver tag body).rest = List.range s.reg.length ∧
      (newBcast s .driver tag body).frame = none ∧ (newBcast s .driver tag body).result = .txOk) ∧
    (∀ (c : ChanId) (ch : Chan) h tag body, s.chans[c]? = some ch → ch.ctl = .handler h →
      exec (.bcastSend (.call (.handler c) tag body)) s =
        .next ((s.setChan c { ch with ctl := .handlerBcast h s.nextBc }).beginBcast (.handler c) tag body)) ∧
    (∀ k b i, s.findBcast k = some b → i ∈ b.rest →
      ∃ t, exec (.bcastSend (.visit k i)) s = .next t ∧ t.chans = s.chans ∧ t.out = s.out ∧ t.locks = s.locks ∧
        BcastOnly s t k ∧
        (∀ c, s.reg[i]? = some (some c) →
          t.findBcast k = some { b with rest := b.rest.filter (· != i), stage := .acq c }) ∧
        (s.reg[i]? = some none →
          t.findBcast k = some { b with rest := b.rest.filter (· != i), stage := .visit })) ∧
    (∀ k b c ch f, s.findBcast k = some b → b.stage = .copy c → b.frame = some f → f.length ≤ 260 →
      s.chans[c]? = some ch → s.holds (.bcast k) c = true → s.writePending (s.mediumOf c) = false →
      ∃ t ch', exec (.bcastSend (.copy k)) s = .next t ∧ t.chans[c]? = some ch' ∧ OthersKept s t c ∧
        t.out = s.out ∧ t.locks = s.locks ∧ BcastOnly s t k ∧
        ch' = { ch with txBuf := ch'.txBuf, txLen := ch'.txLen } ∧
        ch'.txBuf = Memory.writeN ch.txBuf 0 (f.drop 4).dropLast ∧ ch'.txLen.toNat = (f.drop 4).dropLast.length ∧
        t.findBcast k = some { b with stage := .send c }) ∧
    (∀ k b c ch, s.findBcast k = some b → b.stage = .encode c → s.chans[c]? = some ch → s.holds (.bcast k) c = true →
      s.writePending (s.mediumOf c) = false →
      variantOf s.config b.tag = none ∨ 255 < (envelope b.tag b.body).length →
      ∃ t cause, exec (.envEncode (.bcast k) c b.tag b.body) s = .next t ∧ t.chans = s.chans ∧ t.locks = s.locks ∧
        BcastOnly s t k ∧ t.out = s.out ++ [.signal .fail, .result (.bcast k) (.encFail cause)] ∧
        t.findBcast k = some { b with stage := .rel c (.encFailed cause) }) ∧
    (∀ k b c after, s.findBcast k = some b → b.stage = .rel c after →
      s.locks[s.mediumOf c]? = some (.held (.bcast k)) → s.writePending (s.mediumOf c) = false →
      ∃ t, exec (.lockRel (.bcast k) (s.mediumOf c)) s = .next t ∧ t.locks = s.locks.set (s.mediumOf c) .free ∧
        (∀ r, after = .sent r →
          t.chans = s.chans ∧ t.out = s.out ∧ BcastOnly s t k ∧
          t.findBcast k = some { b with stage := .visit, result := if r = .txFail then .txFail else b.result }) ∧
        (∀ cause, after = .encFailed cause → BcastReturns s t b (.encFail cause))) ∧
    (∀ k b, s.findBcast k = some b → b.rest = [] → b.stage = .visit →
      ∃ t, exec (.bcastSend (.finish k)) s = .next t ∧ t.locks = s.locks ∧ BcastReturns s t b b.result)

/-- spec/44_registry_broadcast.md R205: the frame a broadcast keeps is the one `TX.SEND` will emit on the first live
session, captured when the payload has been encoded there; at every later session its lock leads to writing exactly
these bytes (or, with `BCAST_REFRAME`, R209, to copying the payload). The send leads to the wait for it, its end, good or
bad, to the release of the lock, with the frame as it was; and no step of the machine changes a frame once it is kept.
(The place of a `CRC_XOROUT` that is not 0 in the frame: log entry 15.) -/
def Obligations.BroadcastForwardsFrame : Prop :=
  (∀ (s t : State) (k : BcastId) (b b' : Bcast) (f : List Byte), step s = .next t → s.findBcast k = some b →
    b.frame = some f → (∀ c, b.stage ≠ .encode c) → t.findBcast k = some b' → b'.frame = some f) ∧
  ∀ (s : State) (k : BcastId) (b : Bcast) (c : ChanId) (ch : Chan), s.findBcast k = some b →
    s.chans[c]? = some ch →
    (b.stage = .send c → s.holds (.bcast k) c = true → s.writePending (s.mediumOf c) = false →
      ∃ t, exec (.txSend c (.call (.bcast k) s.config.msgidEnvelope)) s = .next t ∧
        t.findBcast k = some { b with stage := .wait c }) ∧
    (∀ f, b.stage = .raw c → f ≠ [] → s.holds (.bcast k) c = true → s.writePending (s.mediumOf c) = false →
      ∃ t, exec (.txRaw c (.call (.bcast k) f)) s = .next t ∧ t.findBcast k = some { b with stage := .wait c }) ∧
    (∀ i, b.stage = .wait c →
      (ch.txJob = .send (.bcast k) ∧ ch.txPhase = .crc ∧ i = .txSend c .ready) ∨
        (∃ x, ch.txJob = .raw (.bcast k) [x] ∧ i = .txRaw c .ready) →
      ∃ t, exec i s = .next t ∧ t.findBcast k = some { b with stage := .rel c (.sent .txOk) }) ∧
    (∀ i, b.stage = .wait c →
      (ch.txJob = .send (.bcast k) ∧ i ∈ [Instr.txSend c .timeout, Instr.txSend c .chReset]) ∨
        (∃ rest, ch.txJob = .raw (.bcast k) rest ∧ i ∈ [Instr.txRaw c .timeout, Instr.txRaw c .chReset]) →
      ∃ t, exec i s = .next t ∧ t.findBcast k = some { b with stage := .rel c (.sent .txFail) }) ∧
    (b.stage = .encode c → s.holds (.bcast k) c = true → s.writePending (s.mediumOf c) = false →
      variantOf s.config b.tag ≠ none → (envelope b.tag b.body).length ≤ 255 →
      ∃ t ch' b', exec (.envEncode (.bcast k) c b.tag b.body) s = .next t ∧ t.chans[c]? = some ch' ∧
        t.findBcast k = some b' ∧ b'.frame = some (ch'.txFrame s.config s.config.msgidEnvelope) ∧
        b'.stage = .send c ∧ bcastOp t b' 0 = some (.txSend c (.call (.bcast k) s.config.msgidEnvelope))) ∧
    (∀ f, b.stage = .acq c → b.frame = some f → s.locks[s.mediumOf c]? = some .free →
      ∃ t b', exec (.lockAcq (.bcast k) (s.mediumOf c)) s = .next t ∧ t.findBcast k = some b' ∧ b'.frame = some f ∧
        (s.config.bcastReframe = false → bcastOp t b' 0 = some (.txRaw c (.call (.bcast k) f))) ∧
        (s.config.bcastReframe = true → bcastOp t b' 0 = some (.bcastSend (.copy k)))) ∧
    (b.stage = .acq c → b.frame = none → s.locks[s.mediumOf c]? = some .free →
      ∃ t b', exec (.lockAcq (.bcast k) (s.mediumOf c)) s = .next t ∧ t.findBcast k = some b' ∧
        bcastOp t b' 0 = some (.envEncode (.bcast k) c b.tag b.body))

/-- spec/44_registry_broadcast.md R208: with no live session nothing is encoded or sent, no signal is raised, and the
result is `TX_OK`, in whatever order the slots are visited: for a handler, which then goes on where it was (R203), for a
stopping worker, which is then stopped (R230), and in the listing for the driver, which no step runs (log entry 13, DESIGN
CHOICE). -/
def Obligations.BroadcastWithoutSession : Prop :=
  ∀ (s : State) (tag : Nat) (body : List Byte) (order : List SlotId),
    (∀ r ∈ s.reg, r = none) → (∀ b ∈ s.bcasts, b.id < s.nextBc) → order.Nodup →
    (∀ i, i ∈ order ↔ i < s.reg.length) →
    (∃ t0 t1 t, exec (.bcastSend (.call .driver tag body)) s = .next t0 ∧ visitAll s.nextBc order t0 = .next t1 ∧
      exec (.bcastSend (.finish s.nextBc)) t1 = .next t ∧
      t.out = s.out ++ [.bcastDone .driver .txOk] ∧ t.chans = s.chans ∧ t.reg = s.reg ∧ t.locks = s.locks ∧
      t.bcasts = s.bcasts) ∧
    (∀ (c : ChanId) (ch : Chan) h, s.chans[c]? = some ch → ch.ctl = .handler h →
      ∃ t0 t1 t, exec (.bcastSend (.call (.handler c) tag body)) s = .next t0 ∧
        visitAll s.nextBc order t0 = .next t1 ∧ exec (.bcastSend (.finish s.nextBc)) t1 = .next t ∧
        t.out = s.out ++ [.bcastDone (.handler c) .txOk] ∧ t.chans = s.chans ∧ t.reg = s.reg ∧ t.locks = s.locks ∧
        t.bcasts = s.bcasts) ∧
    (∀ (c : ChanId) (ch : Chan), s.chans[c]? = some ch → ch.sesPhase = .finalBcast →
      ∃ t0 t1 t, exec (.sesStop c) s = .next t0 ∧ visitAll s.nextBc order t0 = .next t1 ∧
        exec (.bcastSend (.finish s.nextBc)) t1 = .next t ∧
        t.out = s.out ++ [.bcastDone (.stop c) .txOk] ∧
        t.chans = s.chans.set c { ch with sesPhase := .stopped, ctl := .run } ∧ t.reg = s.reg ∧ t.locks = s.locks ∧
        t.bcasts = s.bcasts)

/-! ## Session worker -/

/-- spec/45_session_worker.md R221: the steps of `SES.START` that are its own: the event begins a start of a stopped
worker and is ignored otherwise; the transport registers go to their reset values; the flag is cleared; the heartbeat
timer starts and the loop is entered. That the three transport writes are one step, that the timer and the phase are one
step, and the worker's places between the steps (`startAcq`, `startRel`, `startClaim`) are the model's choice (log entry 9,
DESIGN CHOICE). -/
def Obligations.StartSteps : Prop :=
  ∀ (s : State) (c : ChanId) (ch : Chan), s.chans[c]? = some ch →
    (ch.sesPhase ≠ .stopped → exec (.sesStart c .event) s = .next s) ∧
    (ch.sesPhase = .stopped → ch.ctl = .run →
      exec (.sesStart c .event) s = .next (s.setChan c { ch with ctl := .startAcq })) ∧
    (∃ t ch', exec (.sesStart c .init) s = .next t ∧ t.chans[c]? = some ch' ∧ OthersKept s t c ∧ GlobalsKept s t ∧
      t.out = s.out ∧ ch'.rxState = .waitStart ∧ ch'.txPhase = .idle ∧ ch'.txSeq = 0 ∧ RxRegsKept ch ch' ∧
      RxBufKept ch ch' ∧ TxBufKept ch ch' ∧ ch'.txLen = ch.txLen ∧ ch'.txIdx = ch.txIdx ∧ ch'.txCrc = ch.txCrc ∧
      ch'.txHdrSeq = ch.txHdrSeq ∧ ch'.txHdrMsgid = ch.txHdrMsgid ∧ WorkerKept ch ch' ∧ ch'.ctl = .startRel) ∧
    (∃ t ch', exec (.sesStart c .arm) s = .next t ∧ WorkerOnly s t c ch ch' ∧ t.out = s.out ∧
      ch'.sesTermReq = false ∧ ch'.sesPhase = ch.sesPhase ∧ ch'.sesSlot = ch.sesSlot ∧
      ch'.sesLastStatus = ch.sesLastStatus ∧ ch'.ctl = .startClaim 0) ∧
    (∃ t ch', exec (.sesStart c .enter) s = .next t ∧ WorkerOnly s t c ch ch' ∧ t.out = s.out ∧
      ch'.sesLastStatus = s.now ∧ ch'.sesPhase = .checkTerm ∧ ch'.sesSlot = ch.sesSlot ∧
      ch'.sesTermReq = ch.sesTermReq ∧ ch'.ctl = .run)

/-- spec/45_session_worker.md R221: a whole `SES.START` on a stopped channel whose medium is free and for which a slot is
empty: the transport is as new, the slot is the first empty one, the timer is set, the loop is entered, the lock is free
again, and `CLAIM_OK` is the only output. -/
def Obligations.StartRuns : Prop :=
  ∀ (s : State) (c : ChanId) (ch : Chan) (pre post : List (Option ChanId)), s.chans[c]? = some ch →
    ch.sesPhase = .stopped → ch.ctl = .run → ch.sesSlot = none → s.locks[s.mediumOf c]? = some .free →
    s.writePending (s.mediumOf c) = false → s.reg = pre ++ none :: post → (∀ r ∈ pre, r ≠ none) →
    ∃ t0 t ch', exec (.sesStart c .event) s = .next t0 ∧ turns c (pre.length + 6) t0 = .next t ∧
      t.chans[c]? = some ch' ∧ OthersKept s t c ∧ WorldKept s t ∧ t.locks = s.locks ∧ t.bcasts = s.bcasts ∧
      t.reg = pre ++ some c :: post ∧ ch'.sesSlot = some pre.length ∧ ch'.sesPhase = .checkTerm ∧ ch'.ctl = .run ∧
      ch'.sesTermReq = false ∧ ch'.sesLastStatus = s.now ∧ ch'.rxState = .waitStart ∧ ch'.txPhase = .idle ∧
      ch'.txSeq = 0 ∧ RxRegsKept ch ch' ∧ RxBufKept ch ch' ∧ TxBufKept ch ch' ∧
      t.out = s.out ++ [.result (.worker c) (.claimOk pre.length)]

/-- spec/60_exceptions.md R280: with no empty slot the start fails: `START_FAIL`, the worker stays `STOPPED` without a
slot, the registry is unchanged, and there is no signal. -/
def Obligations.StartFailsWhenFull : Prop :=
  ∀ (s : State) (c : ChanId) (ch : Chan), s.chans[c]? = some ch →
    ch.sesPhase = .stopped → ch.ctl = .run → ch.sesSlot = none → s.locks[s.mediumOf c]? = some .free →
    s.writePending (s.mediumOf c) = false → s.reg ≠ [] → (∀ r ∈ s.reg, r ≠ none) →
    ∃ t0 t ch', exec (.sesStart c .event) s = .next t0 ∧ turns c (s.reg.length + 4) t0 = .next t ∧
      t.chans[c]? = some ch' ∧ ch'.sesPhase = .stopped ∧ ch'.ctl = .run ∧ ch'.sesSlot = none ∧ t.reg = s.reg ∧
      t.locks = s.locks ∧ t.out = s.out ++ [.result (.worker c) .startFail] ∧ t.signals = s.signals

/-- spec/45_session_worker.md R222: a termination request leads to `DEREGISTER`, otherwise the status check is next. -/
def Obligations.CheckTermStep : Prop :=
  ∀ (s : State) (c : ChanId) (ch : Chan), s.chans[c]? = some ch →
    ∃ t ch', exec (.sesCheckTerm c) s = .next t ∧ WorkerOnly s t c ch ch' ∧ t.out = s.out ∧
      (ch.sesTermReq = true → ch'.sesPhase = .deregister) ∧
      (ch.sesTermReq = false → ch'.sesPhase = .checkStatus) ∧ ch'.sesSlot = ch.sesSlot ∧
      ch'.sesTermReq = ch.sesTermReq ∧ ch'.sesLastStatus = ch.sesLastStatus ∧ ch'.ctl = ch.ctl

/-- spec/45_session_worker.md R223: if more than the period has passed, or on `StatusDue`, the Status handler is called
and the worker waits; otherwise `RECEIVE` is next; when the handler has returned, the timer is set to the time of then
and `RECEIVE` is next. That the time passed is the difference modulo 2^64 is log entry 22 (DEDUCED), that `StatusDue` is taken
whatever the clock says is log entry 21 (DESIGN CHOICE), and the place of the wait is log entry 9 (DESIGN CHOICE): they are
the model's. -/
def Obligations.StatusSteps : Prop :=
  ∀ (s : State) (c : ChanId) (ch : Chan), s.chans[c]? = some ch →
    (∀ x, (x = .compare ∧ s.cfg.statusPeriod.toNat < (s.now - ch.sesLastStatus).toNat) ∨ x = .due →
      ∃ t ch', exec (.sesStatus c x) s = .next t ∧ WorkerOnly s t c ch ch' ∧ WorkerKept ch ch' ∧
        t.out = s.out ++ [.statusCall c] ∧ ch'.ctl = .handler .status) ∧
    ((s.now - ch.sesLastStatus).toNat ≤ s.cfg.statusPeriod.toNat →
      ∃ t ch', exec (.sesStatus c .compare) s = .next t ∧ WorkerOnly s t c ch ch' ∧ t.out = s.out ∧
        ch'.sesPhase = .receive ∧ ch'.sesSlot = ch.sesSlot ∧ ch'.sesTermReq = ch.sesTermReq ∧
        ch'.sesLastStatus = ch.sesLastStatus ∧ ch'.ctl = ch.ctl) ∧
    (∃ t ch', exec (.sesStatus c .handlerDone) s = .next t ∧ WorkerOnly s t c ch ch' ∧ t.out = s.out ∧
      ch'.sesPhase = .receive ∧ ch'.sesLastStatus = s.now ∧ ch'.sesSlot = ch.sesSlot ∧
      ch'.sesTermReq = ch.sesTermReq ∧ ch'.ctl = .run)

/-- spec/45_session_worker.md R224, R226: the worker calls `receive`; a good frame leads to `DISPATCH`, no data and a
failed frame back to the top of the loop. Pass 1 over the received payload routes the message to its variant's row; when
the handler has returned, the next iteration begins. That the row is an operation of its own, the worker's next step, is log
entry 20 (DEDUCED, DESIGN CHOICE), and the places of the worker in the receive are log entry 9 (DESIGN CHOICE): they are the
model's. -/
def Obligations.ReceiveAndDispatchSteps : Prop :=
  (∀ (s : State) (c : ChanId) (ch : Chan), s.chans[c]? = some ch →
    (ch.ctl = .run →
      ∃ t ch', exec (.sesReceive c) s = .next t ∧ WorkerOnly s t c ch ch' ∧ WorkerKept ch ch' ∧ t.out = s.out ∧
        ch'.ctl = .recvTop) ∧
    (∀ r, ch.ctl = .recvDone r →
      ∃ t ch', exec (.sesReceive c) s = .next t ∧ WorkerOnly s t c ch ch' ∧ t.out = s.out ∧ ch'.ctl = .run ∧
        ch'.sesSlot = ch.sesSlot ∧ ch'.sesTermReq = ch.sesTermReq ∧ ch'.sesLastStatus = ch.sesLastStatus ∧
        (∀ seq msgid len payload, r = .rxOk seq msgid len payload → ch'.sesPhase = .dispatch) ∧
        (r = .rxNoData → ch'.sesPhase = .checkTerm) ∧ (∀ cause, r = .rxFail cause → ch'.sesPhase = .checkTerm))) ∧
  (∀ (s : State) (c : ChanId) (ch : Chan), s.chans[c]? = some ch →
    (∀ v off w, discriminate s.config (Memory.readN ch.rxBuf 0 ch.rxLen.toNat) = some (v, off, w) →
      ∃ t ch', exec (.sesDispatch c .pass1) s = .next t ∧ WorkerOnly s t c ch ch' ∧ WorkerKept ch ch' ∧
        t.out = s.out ∧ workerOp t c ch' = some (Instr.ofVariant v c w)) ∧
    (∃ t ch', exec (.sesDispatch c .handlerDone) s = .next t ∧ DispatchEnds s t c ch ch' []))

/-- spec/45_session_worker.md R229: a reply of a running handler, with a known tag and a body that fits, on a free
medium, emits exactly the frame of the channel's sequence counter with the envelope as its payload; the handler gets
`TX_OK`, the counter has advanced by one, and the lock is free again. A reply that cannot be encoded emits nothing,
signals, and hands `ENC_FAIL` to the handler; outside a handler's window a reply is ignored, and so is one of a handler
that is blocked in an earlier command (log entry 34, DEDUCED). The place of a `CRC_XOROUT` that is not 0 in the frame is
the model's choice (log entry 15, PRESUMED). -/
def Obligations.ReplyEmitsMessage : Prop :=
  ∀ (s : State) (c : ChanId) (ch : Chan) (tag : Nat) (body : List Byte), s.chans[c]? = some ch →
    ((∀ h, ch.ctl ≠ .handler h) → exec (.sesSend c tag body) s = .next s) ∧
    (∀ h, ch.ctl = .handler h → s.locks[s.mediumOf c]? = some .free → s.writePending (s.mediumOf c) = false →
      Memory.wf ch.txBuf = true →
      (variantOf s.config tag ≠ none → (envelope tag body).length ≤ 255 →
        ∃ t0 t1 t2 t ch', exec (.sesSend c tag body) s = .next t0 ∧ turns c 3 t0 = .next t1 ∧
          pump c (5 + (envelope tag body).length) t1 = .next t2 ∧ turns c 1 t2 = .next t ∧
          t.chans[c]? = some ch' ∧ OthersKept s t c ∧ WorldKept s t ∧ SharedKept s t ∧ ReceiverKept ch ch' ∧
          WorkerKept ch ch' ∧ ch'.txSeq = ch.txSeq + 1 ∧ ch'.txPhase = .idle ∧ ch'.txJob = .none ∧
          ch'.ctl = .handler h ∧
          t.out = s.out ++
            (.result (.worker c) .encOk ::
             ((frameBytes s.config ch.txSeq s.config.msgidEnvelope (envelope tag body)).map (.emit c) ++
              [.result (.worker c) .txOk, .replyDone c .txOk]))) ∧
      (variantOf s.config tag = none ∨ 255 < (envelope tag body).length →
        ∃ t0 t ch' cause, exec (.sesSend c tag body) s = .next t0 ∧ turns c 3 t0 = .next t ∧
          t.chans[c]? = some ch' ∧ OthersKept s t c ∧ WorldKept s t ∧ SharedKept s t ∧ ReceiverKept ch ch' ∧
          SenderKept ch ch' ∧ WorkerKept ch ch' ∧ ch'.ctl = .handler h ∧
          t.out = s.out ++
            [.signal .fail, .result (.worker c) (.encFail cause), .replyDone c (.encFail cause)]))

/-- spec/45_session_worker.md R230: in `DEREGISTER` the worker's slot is cleared and `FINAL_BCAST` is next; there the
final diagnostic is broadcast with the worker as its caller, and when that broadcast returns, after its last visit with
whatever result, or with `ENC_FAIL` from the release of the lock, the worker is stopped. The termination flag stays as it
is. That one `SES.STOP` step in `DEREGISTER` clears a slot still held and writes the phase with it is the model's choice
(log entry 34, DESIGN CHOICE): the worker itself takes `REG.CLEAR` first, as a step of its own. The place at which the worker
waits for its broadcast, and the broadcast's number, are the model's (log entries 9 and 14, DESIGN CHOICE). -/
def Obligations.StopSteps : Prop :=
  ∀ (s : State) (c : ChanId) (ch : Chan), s.chans[c]? = some ch →
    (ch.sesPhase = .deregister →
      ∃ t ch', exec (.sesStop c) s = .next t ∧ t.chans[c]? = some ch' ∧ OthersKept s t c ∧ WorldKept s t ∧
        (∀ i, ch.sesSlot = some i → t.reg = s.reg.set i none) ∧ (ch.sesSlot = none → t.reg = s.reg) ∧
        t.locks = s.locks ∧ t.bcasts = s.bcasts ∧ t.out = s.out ∧
        ch' = { ch with sesSlot := none, sesPhase := .finalBcast }) ∧
    (ch.sesPhase = .finalBcast →
      ∃ t ch' b, exec (.sesStop c) s = .next t ∧ t.chans[c]? = some ch' ∧ OthersKept s t c ∧ WorldKept s t ∧
        t.reg = s.reg ∧ t.locks = s.locks ∧ t.out = s.out ∧ t.bcasts = s.bcasts ++ [b] ∧ b.id = s.nextBc ∧
        b.caller = .stop c ∧ (b.tag, b.body) = finalDiag s.config c ∧ b.rest = List.range s.reg.length ∧
        ch' = { ch with ctl := .finalBcast s.nextBc }) ∧
    (∀ k b, s.findBcast k = some b → b.caller = .stop c → b.rest = [] → b.stage = .visit →
      ch.ctl = .finalBcast k →
      ∃ t ch', exec (.bcastSend (.finish k)) s = .next t ∧ t.chans[c]? = some ch' ∧ OthersKept s t c ∧
        t.locks = s.locks ∧ BcastReturns s t b b.result ∧ ch' = { ch with sesPhase := .stopped, ctl := .run }) ∧
    (∀ k b d cause, s.findBcast k = some b → b.caller = .stop c → b.stage = .rel d (.encFailed cause) →
      ch.ctl = .finalBcast k → s.locks[s.mediumOf d]? = some (.held (.bcast k)) →
      s.writePending (s.mediumOf d) = false →
      ∃ t ch', exec (.lockRel (.bcast k) (s.mediumOf d)) s = .next t ∧ t.chans[c]? = some ch' ∧ OthersKept s t c ∧
        t.locks = s.locks.set (s.mediumOf d) .free ∧ BcastReturns s t b (.encFail cause) ∧
        ch' = { ch with sesPhase := .stopped, ctl := .run })

/-- Every step keeps the agreement of the workers' phases, places and slots (spec/10_state.md R32, R33 and
spec/60_exceptions.md R280: a worker in its loop is registered). -/
def Obligations.SessionInvariantKept : Prop :=
  ∀ s t : State, s.sesInv → step s = .next t → t.sesInv

/-- A worker's turn always goes on: in states in which the locks, the workers and the sizes agree, no step of a worker
faults or is refused (spec/60_exceptions.md: no operation of the block traps; the agreement is the model's invariant). -/
def Obligations.WorkerTurnGoesOn : Prop :=
  ∀ (s : State) (c : ChanId), s.lockInv → s.sesInv → s.sizeInv → c < s.chans.length →
    ∃ t, (workerTurn s c).carryOut = .next t

/-! ## The whole machine -/

/-- A frame presented on a channel is put on its receive stream behind what is there, first byte first, in the layout of
spec/30_encoding.md R90; nothing else changes. That the opcode table's row `FRAME`, a format of bytes, means as an operation
that the peer's frame is presented (R112) is the model's choice (log entry 19, DESIGN CHOICE). -/
def Obligations.FramePresented : Prop :=
  ∀ (s : State) (c : ChanId) (ch : Chan) (seq msgid crc : Byte) (payload : List Byte), s.chans[c]? = some ch →
    exec (.frame c seq msgid payload crc) s =
      .next (s.setChan c { ch with
        rxs := ch.rxs ++ (s.config.start :: seq :: msgid :: BitVec.ofNat 8 payload.length :: (payload ++ [crc])) })

/-- Where operations stop: on a channel outside the range spec/10_state.md R20 gives, with the model's own fault; and for
an agent that does not hold the lock of the channel's medium, which spec/20_memory.md R71 and R161, R166 and R176 have as a
precondition of the transport. The spec gives both no effect; the stops by name are the model's (log entry 25, DESIGN
CHOICE). -/
def Obligations.OperationsStopByName : Prop :=
  (∀ (i : Instr) (s : State) (c : ChanId), channelOf i = some c → s.chans[c]? = none →
    exec i s = .fault (.noSuchChannel c)) ∧
  (∀ (s : State) (c : ChanId) (ch : Chan) (a : Agent), s.chans[c]? = some ch → s.holds a c = false →
    (∀ msgid, exec (.txSend c (.call a msgid)) s = .refused (.lockNotHeld a c)) ∧
    (∀ frame, exec (.txRaw c (.call a frame)) s = .refused (.lockNotHeld a c)) ∧
    (∀ t body, exec (.envEncode a c t body) s = .refused (.lockNotHeld a c)))

/-- spec/60_exceptions.md R271: the list of fault signals is closed: an operation signals at most once, `NORMAL` only as
`RX.CRC`, and not at all if it is not an operation of the table. -/
def Obligations.SignalsClosed : Prop :=
  ∀ (i : Instr) (s t : State), exec i s = .next t →
    ∃ l, t.signals = s.signals ++ l ∧ l.length ≤ 1 ∧ (maySignal i = false → l = []) ∧
      (.normal ∈ l → ∃ c b, i = .rxCrc c b)

/-- spec/10_state.md R36 and spec/60_exceptions.md R286: only reset writes the configuration registers, from its inputs,
so that legal ones stay legal (that illegal inputs are refused is log entry 31); the parameters never change; only the
environment sets a termination flag. -/
def Obligations.ConfigurationKept : Prop :=
  ∀ s t : State, step s = .next t →
    t.config = s.config ∧
    (t.cfg = s.cfg ∨ ∃ inputs rest, s.script = .rst inputs :: rest ∧ inputs.legal s.config = true ∧ t.cfg = inputs) ∧
    (s.cfg.legal s.config = true → t.cfg.legal t.config = true) ∧
    (∀ c ch ch', s.chans[c]? = some ch → t.chans[c]? = some ch' → ch.sesTermReq = false → ch'.sesTermReq = true →
      ∃ rest, s.script = .terminate c :: rest)

/-- Every step keeps the buffers canonical and within their capacity of 255 bytes, and a broadcast's private frame
within 260 (spec/10_state.md R28, R30, R42); and every step keeps the sizes the parameters give: of the channels, the
registry, the locks and the medium map, whose every medium has a lock (R20, R38, R39). -/
def Obligations.BuffersAndSizesKept : Prop :=
  (∀ s t : State, s.memInv → step s = .next t → t.memInv) ∧
  (∀ s t : State, s.sizeInv → step s = .next t → t.sizeInv)

/-- No buffer index is ever out of range (spec/10_state.md R28, R30): in states in which the receivers' and the senders'
registers agree with their phases, no step faults on one. -/
def Obligations.NoIndexFault : Prop :=
  ∀ (s : State) (c : ChanId) (i : Nat), s.rxInv → s.txInv → step s ≠ .fault (.noSuchIndex c i)

/-- A step runs the operation that is selected: a stimulus that selects an operation makes the step that operation, in
the state the stimulus leaves; an operation word that decodes to an operation and whose selection holds does the same
(the words are log entry 2's); a byte given to a waiting receiver runs the operation R111 selects. A word or a `Broadcast`
by which a caller outside the block asks for the operation of an agent has no step, nor has a word of a decode pass, which is
the dispatcher's (spec/60_exceptions.md R286, spec/45_session_worker.md R226, R228; that such a word can be written is log
entry 13). -/
def Obligations.StepRunsOperation : Prop :=
  ∀ (s : State) (rest : List Stim),
    (∀ σ i s', s.script = σ :: rest → State.plan { s with script := rest } σ = .run i s' → step s = exec i s') ∧
    (∀ word i s', s.script = .op word :: rest → decodeWord s.config.start word = .ok i →
      selected { s with script := rest } i = some s' → step s = exec i s') ∧
    (∀ c ch b, s.script = .rxByte c b :: rest → s.chans[c]? = some ch → ch.sesPhase = .receive →
      ch.ctl = .recvRead → ch.rxs = [] →
      step s = exec (decodeRx s.config.start ch.rxState c (.byte b)) ({ s with script := rest }.setChan c ch)) ∧
    (∀ word i, s.script = .op word :: rest → decodeWord s.config.start word = .ok i → driverCalls i = true →
      step s = .next { s with script := rest }) ∧
    (∀ tag body, s.script = .broadcast .driver tag body :: rest → step s = .next { s with script := rest })

/-- spec/10_state.md R44 and spec/70_reset_and_hazards.md R310, R311: the values reset gives, right after reset and on
every later `rst` with legal inputs: nothing is put out, every output port is 0 in that cycle, the bytes the channel devices
hold stay. (The values of the
other registers are the model's choice, log entries 6 and 7, and are not stated.) -/
def Obligations.ResetValues : Prop :=
  (∀ (k : Config) (inputs : CfgRegs) (c : ChanId) (ch : Chan), (State.resetWith k inputs).chans[c]? = some ch →
    ch.rxState = .waitStart ∧ ch.txPhase = .idle ∧ ch.txSeq = 0x00 ∧ ch.sesPhase = .stopped ∧ ch.sesSlot = none ∧
    ch.sesTermReq = false ∧ (State.resetWith k inputs).cfg = inputs ∧
    (∀ r ∈ (State.resetWith k inputs).reg, r = none) ∧ (∀ l ∈ (State.resetWith k inputs).locks, l = .free)) ∧
  (∀ (s : State) (inputs : CfgRegs) (rest : List Stim), s.script = .rst inputs :: rest → inputs.legal s.config = true →
    ∃ t, step s = .next t ∧ t.cfg = inputs ∧ t.out = s.out ∧ t.bcasts = [] ∧ (∀ r ∈ t.reg, r = none) ∧
      (s.outPorts t).fault = none ∧ (s.outPorts t).cmd = none ∧ (∀ p ∈ (s.outPorts t).chans, p = ChanPorts.idle) ∧
      (s.outPorts t).chans.length = s.chans.length ∧
      (∀ l ∈ t.locks, l = .free) ∧ t.reg.length = s.reg.length ∧ t.locks.length = s.locks.length ∧
      ∀ (c : ChanId) (ch : Chan), s.chans[c]? = some ch → ∃ ch' : Chan, t.chans[c]? = some ch' ∧ ch'.rxState = .waitStart ∧
        ch'.txPhase = .idle ∧ ch'.txSeq = 0x00 ∧ ch'.sesPhase = .stopped ∧ ch'.sesSlot = none ∧
        ch'.sesTermReq = false ∧ ch'.rxs = ch.rxs ∧ ch'.running = false ∧ ch'.rxReady = false ∧ ch'.txValid = false)

/-- Every invariant holds right after reset, at all parameters and inputs; the sizes agree at legal parameters, whose map
of media (R39) fits the numbers of channels and locks. -/
def Obligations.InvariantsAtReset : Prop :=
  ∀ (k : Config) (inputs : CfgRegs), let s := State.resetWith k inputs
    s.rxInv ∧ s.txInv ∧ s.regInv ∧ s.sesInv ∧ s.lockInv ∧ s.driverIdle ∧ s.memInv ∧ (k.legal = true → s.sizeInv)

/-! ## Handlers -/

/-- spec/46_handler_contracts.md R245 to R250 and R252: what a handler does, whatever its surroundings answer. A request
that fails its filter, or already carries a response or a diff, has no act at all, so nothing is executed. A command is
executed once and answered with its result; a time reference sets the timestamp and is answered with time and offset; a
set that succeeded is re-read and broadcast, a failed one is not; a parameter request broadcasts the parameter it names, or
skips an unknown one, and a full dump broadcasts every parameter, each with its index and the count; a memory dump asks its region's reader for one page after another and replies with each, and a reported error
is its last act. The Status handler asks for its flags and sensors, for the raw-ADC values only with the debug flag, and sends one reply.
What the dispatcher dispatches reaches its variant's handler with the typed body, whose engine id the filter reads, however
the body's fields are read; `StatusCall` calls the Status handler. That the reading of the fields is open is log entry 29.
The fields a time reference's reply repeats, the order of its calls, and the lists of subsystems and sensors are the model's
choice (log entry 35), and so are what the parameter store returns, which index a broadcast by index carries, and that a
dump asks for the count that bounds it once; the types of the fields are log entry 29. -/
def Obligations.HandlerContracts : Prop :=
  ∀ (k : Config) (cfg : CfgRegs) (w : Surroundings) (n : Nat),
    ((∀ e op resp, e ≠ cfg.engineId ∨ resp ≠ none → (handleCommand cfg e op resp).acts w n = []) ∧
      (∀ e id value, e ≠ cfg.engineId → (handleParamSet cfg e id value).acts w n = []) ∧
      (∀ e ts diff, (e ≠ cfg.engineId ∧ e ≠ 0) ∨ diff ≠ none → (handleTimeReference cfg e ts diff).acts w n = []) ∧
      (∀ both e byId byIndex, e ≠ cfg.engineId → e ≠ 0 →
        (handleParamRequest cfg both e byId byIndex).acts w n = []) ∧
      (∀ e region addr size sid, e ≠ cfg.engineId →
        (handleMemoryDump k cfg e region addr size sid).acts w n = [])) ∧
    (∀ subsystems sensors adc, ∃ flags rs raw, raw.isSome = cfg.dbgAdcRaw ∧ rs.length = sensors.length ∧
      (∀ j x, sensors[j]? = some x → rs[j]? = some (x, w.answer (n + subsystems + j) (.sensor (.sensor x)))) ∧
      (∀ l, raw = some l → l.length = adc ∧
        ∀ j, j < adc → l[j]? = some (w.answer (n + subsystems + sensors.length + j) (.sensor (.rawAdc j)))) ∧
      (∀ i, i < subsystems → Nat.testBit flags i = w.answer (n + i) (.flag i)) ∧ flags < 2 ^ subsystems ∧
      (handleStatus cfg subsystems sensors adc).acts w n =
        (List.range subsystems).map (fun i => .call (.flag i)) ++
          (sensors.map (fun x => .call (.sensor (.sensor x))) ++
            ((if cfg.dbgAdcRaw then (List.range adc).map fun i => .call (.sensor (.rawAdc i)) else []) ++
              [.reply (.status flags rs raw)]))) ∧
    (∀ op, (handleCommand cfg cfg.engineId op none).acts w n =
      [.call (.execute op), .reply (.command cfg.engineId op (w.answer n (.execute op)))]) ∧
    (∀ e ts, e = cfg.engineId ∨ e = 0 → (handleTimeReference cfg e ts none).acts w n =
      [.call (.setTimestamp ts), .call .getSystemTime,
       .reply (.timeReference e ts (w.answer (n + 1) .getSystemTime) (w.answer n (.setTimestamp ts)))]) ∧
    (∀ id value,
      (∀ p, w.answer n (.set id value) ≠ .error → w.answer (n + 1) (.getById id) = some p →
        (handleParamSet cfg cfg.engineId id value).acts w n =
          [.call (.set id value), .call (.getById id), .call .count,
           .broadcast (.paramValue p.id p.value p.index (w.answer (n + 2) .count))]) ∧
      (w.answer n (.set id value) = .error →
        (handleParamSet cfg cfg.engineId id value).acts w n = [.call (.set id value)])) ∧
    (∀ both e, e = cfg.engineId ∨ e = 0 →
      (∀ id, ((handleParamRequest cfg both e (some id) none).acts w n).filterMap HandlerAct.sent =
        ((w.answer n (.getById id) : Option Param).toList.map fun p =>
          .paramValue p.id p.value p.index (w.answer (n + 1) .count))) ∧
      (∀ i, ((handleParamRequest cfg both e none (some i)).acts w n).filterMap HandlerAct.sent =
        ((w.answer n (.getByIndex i) : Option Param).toList.map fun p =>
          .paramValue p.id p.value i (w.answer (n + 1) .count)))) ∧
    (∀ both e total (p : Nat → Param), e = cfg.engineId ∨ e = 0 → (∀ m, w.answer m .count = total) →
      (∀ m i, i < total → w.answer m (.getByIndex i) = some (p i)) →
      ((handleParamRequest cfg both e none none).acts w n).filterMap HandlerAct.sent =
        (List.range total).map fun i => .paramValue (p i).id (p i).value i total) ∧
    (∀ region addr size sid, region ≠ .unknown →
      (0 < k.pageSize → (∀ m a len, (w.answer m (.read region a len)).length = len) → (∀ m, w.result m = .txOk) →
        (handleMemoryDump k cfg cfg.engineId region addr size sid).acts w n =
          (List.range ((size + k.pageSize - 1) / k.pageSize)).flatMap fun j =>
            [.call (.read region (addr + j * k.pageSize) (min k.pageSize (size - j * k.pageSize))),
             .reply (.memoryDumpPage sid (addr + j * k.pageSize)
               (w.answer (n + 2 * j) (.read region (addr + j * k.pageSize) (min k.pageSize (size - j * k.pageSize)))))]) ∧
      (0 < size → w.answer n (.read region addr (min k.pageSize size)) = [] →
        (handleMemoryDump k cfg cfg.engineId region addr size sid).acts w n =
          [.call (.read region addr (min k.pageSize size)), .reportError])) ∧
    (∀ region addr size sid before after,
      (handleMemoryDump k cfg cfg.engineId region addr size sid).acts w n = before ++ .reportError :: after →
        after = []) ∧
    (∀ addr size sid, (handleMemoryDump k cfg cfg.engineId .unknown addr size sid).acts w n = [.reportError]) ∧
    (∀ (h : HandlerParams) (c : ChanId) (x : BodyVal), let f := h.fields
      (Output.dispatch c .timeReference x).handler h k cfg =
        some (c, handleTimeReference cfg (f.engineId .timeReference x) (f.peerTs x) (f.diff x)) ∧
      (Output.dispatch c .command x).handler h k cfg =
        some (c, handleCommand cfg (f.engineId .command x) (f.operation x) (f.response x)) ∧
      (Output.dispatch c .paramRequest x).handler h k cfg =
        some (c, handleParamRequest cfg h.both (f.engineId .paramRequest x) (f.byId x) (f.byIndex x)) ∧
      (Output.dispatch c .paramSet x).handler h k cfg =
        some (c, handleParamSet cfg (f.engineId .paramSet x) (f.setId x) (f.setValue x)) ∧
      (Output.dispatch c .memoryDumpRequest x).handler h k cfg =
        some (c, handleMemoryDump k cfg (f.engineId .memoryDumpRequest x) (f.region x) (f.address x) (f.size x)
          (f.streamId x)) ∧
      (Output.statusCall c).handler h k cfg = some (c, handleStatus cfg h.subsystems h.sensors h.adcChannels) ∧
      (∀ v, v ∈ [.command, .paramSet, .memoryDumpRequest] ∧ f.engineId v x ≠ cfg.engineId ∨
          v ∈ [.timeReference, .paramRequest] ∧ f.engineId v x ≠ cfg.engineId ∧ f.engineId v x ≠ 0 →
        (Output.dispatch c v x).handlerStims h w k cfg = [.handlerDone c]))
end

