-- ==== Sys2Proof/Laws/Handlers.lean ====
section
/-! SUPPORT. What the shared parts of the handlers do, each said once (spec/46_handler_contracts.md). -/

namespace Sys2Proof.Machine

/-- Questions are asked in order, each by one call (R246). -/
theorem askAll_acts {α β : Type} (w : Surroundings) (ask : α → (β → Handler) → Handler) (q : α → Call)
    (a : Nat → α → β)
    (hask : ∀ x next n, (ask x next).acts w n = .call (q x) :: (next (a n x)).acts w (n + 1))
    (xs : List α) (next : List β → Handler) (n : Nat) :
    (askAll ask xs next).acts w n =
      xs.map (fun x => .call (q x)) ++
        (next ((xs.zipIdx n).map fun p => a p.2 p.1)).acts w (n + xs.length) := by
  induction xs generalizing next n with
  | nil => rfl
  | cons x xs ih => simp [askAll, hask, ih, Nat.add_assoc, Nat.add_comm 1]

/-- Sensors are read in order, one call each (R246). -/
theorem askSensors_acts (w : Surroundings) (xs : List Accessor) (next : List Reading → Handler) (n : Nat) :
    (askAll askSensor xs next).acts w n =
      xs.map (fun x => .call (.sensor x)) ++
        (next ((xs.zipIdx n).map fun p => w.answer p.2 (.sensor p.1))).acts w (n + xs.length) :=
  askAll_acts w askSensor .sensor (fun n x => w.answer n (.sensor x)) (fun _ _ _ => rfl) xs next n

/-- Flags are read in order, one call each (R246). -/
theorem askFlags_acts (w : Surroundings) (xs : List Nat) (next : List Bool → Handler) (n : Nat) :
    (askAll askFlag xs next).acts w n =
      xs.map (fun x => .call (.flag x)) ++
        (next ((xs.zipIdx n).map fun p => w.answer p.2 (.flag p.1))).acts w (n + xs.length) :=
  askAll_acts w askFlag .flag (fun n x => w.answer n (.flag x)) (fun _ _ _ => rfl) xs next n

/-- Bit `i` of a bitmask is flag `i`. -/
theorem bitmask_testBit (bs : List Bool) (i : Nat) : (bitmask bs).testBit i = bs.getD i false := by
  induction bs generalizing i with
  | nil => simp [bitmask]
  | cons b bs ih =>
    cases i with
    | zero => cases b <;> simp [bitmask, Nat.testBit_zero]
    | succ i =>
      have h : (b.toNat + 2 * bitmask bs) / 2 = bitmask bs := by cases b <;> (simp; try omega)
      simp [bitmask, Nat.testBit_succ, h, ih]

/-- A bitmask has no bit beyond its flags. -/
theorem bitmask_lt (bs : List Bool) : bitmask bs < 2 ^ bs.length := by
  induction bs with
  | nil => simp [bitmask]
  | cons b bs ih => cases b <;> simp [bitmask, Nat.pow_succ] <;> omega

/-- The handler of a dispatched body is that of the request it reads as (R245). -/
theorem handleDispatch_request {k : Config} {cfg : CfgRegs} {both : BothPresent} {f : BodyFields} {v : Variant}
    {x : BodyVal} {r : Request} (h : f.request v x = some r) :
    handleDispatch k cfg both f v x = handleRequest k cfg both r := by
  simp [handleDispatch, h]

/-- Every variant that the dispatcher hands to a handler reads as a request (R227, R245). -/
theorem request_isSome (f : BodyFields) (v : Variant) (x : BodyVal)
    (h : v ∈ [.timeReference, .command, .paramRequest, .paramSet, .memoryDumpRequest]) :
    (f.request v x).isSome = true := by
  cases v <;> simp_all [BodyFields.request]

/-- A handler without an act comes back with its return alone (R245). -/
theorem stims_of_no_acts {w : Surroundings} {k : Config} {enc : Message → List Byte} {report : ErrorReport} {c : ChanId}
    {p : Handler} (h : p.acts w 0 = []) : p.stims w k enc report c = [.handlerDone c] := by
  simp [Handler.stims, h]

/-- A parameter found by its identifier is broadcast with its index and the count, an unknown one skipped (R249, R250). -/
theorem paramById_acts (w : Surroundings) (n id : Nat) (next : Handler) :
    (paramById id next).acts w n =
      .call (.getById id) ::
        (match (w.answer n (.getById id) : Option Param) with
         | some p =>
           .call .count :: .broadcast (.paramValue p.id p.value p.index (w.answer (n + 1) .count)) ::
             next.acts w (n + 3)
         | none => next.acts w (n + 1)) := by
  unfold paramById
  simp only [Handler.acts]
  generalize w.answer n (.getById id) = p
  cases p <;> rfl

/-- A parameter found by its index is broadcast with it and the count, an unknown one skipped (R249). -/
theorem paramByIndex_acts (w : Surroundings) (n i : Nat) (next : Handler) :
    (paramByIndex i next).acts w n =
      .call (.getByIndex i) ::
        (match (w.answer n (.getByIndex i) : Option Param) with
         | some p =>
           .call .count :: .broadcast (.paramValue p.id p.value i (w.answer (n + 1) .count)) :: next.acts w (n + 3)
         | none => next.acts w (n + 1)) := by
  unfold paramByIndex
  simp only [Handler.acts]
  generalize w.answer n (.getByIndex i) = p
  cases p <;> rfl

/-- One turn of the page loop (R252): a read, then an error report or a page. -/
theorem dumpPages_acts (w : Surroundings) (ps sid fuel addr remaining n : Nat) (region : Region) (h : remaining ≠ 0) :
    (dumpPages ps sid region (fuel + 1) addr remaining).acts w n =
      .call (.read region addr (min ps remaining)) ::
        (let data := List.take (min ps remaining) (w.answer n (.read region addr (min ps remaining)))
         let next := dumpPages ps sid region fuel (addr + data.length) (remaining - data.length)
         if data.isEmpty then [.reportError]
         else
           .reply (.memoryDumpPage sid addr data) ::
             (if w.result (n + 1) = .txOk then next.acts w (n + 2)
              else if w.choice (n + 2) then [] else next.acts w (n + 3))) := by
  simp only [dumpPages, h, if_false, Handler.acts]
  split
  · rfl
  · simp only [Handler.acts]
    split
    · rfl
    · simp only [Handler.acts]
      split <;> rfl

end Sys2Proof.Machine
end

