-- ==== Sys2Proof/Laws/Memory.lean ====
section
/-! SUPPORT. The laws of the buffers: reading after writing, and that every write keeps the canonical form and the
capacity. -/

namespace Sys2Proof.Machine

/-- The canonical form as a proposition. -/
theorem Memory.wf_cons (a : Nat) (x : Byte) (m : Memory) :
    Memory.wf ((a, x) :: m) = true ↔
      x ≠ unwritten ∧ (∀ cell ∈ m.head?, a < cell.1) ∧ Memory.wf m = true := by
  cases m with
  | nil => simp [Memory.wf, bne_iff_ne]
  | cons q m =>
    obtain ⟨a', x'⟩ := q
    simp [Memory.wf, bne_iff_ne, and_assoc]

/-- In a canonical buffer every listed index is above the first. -/
theorem Memory.lt_of_mem {a : Nat} {x : Byte} {m : Memory} (h : Memory.wf ((a, x) :: m) = true) :
    ∀ cell ∈ m, a < cell.1 := by
  induction m generalizing a x with
  | nil => simp
  | cons q m ih =>
    obtain ⟨a', x'⟩ := q
    have h1 := (Memory.wf_cons a x _).mp h
    have ha : a < a' := h1.2.1 (a', x') (by simp)
    intro cell hc
    rcases List.mem_cons.mp hc with rfl | hc
    · exact ha
    · exact Nat.lt_trans ha (ih h1.2.2 cell hc)

/-- What an index below every listed one reads as. -/
theorem Memory.read_of_lt {m : Memory} {i : Nat} (h : ∀ cell ∈ m, i < cell.1) : Memory.read m i = unwritten := by
  induction m with
  | nil => rfl
  | cons q m ih =>
    obtain ⟨a, x⟩ := q
    have ha : i < a := h (a, x) (by simp)
    simp only [Memory.read]
    rw [if_neg (by omega)]
    exact ih fun cell hc => h cell (by simp [hc])

/-- A written byte reads as written, in a canonical buffer. -/
theorem Memory.read_write_self {m : Memory} (h : Memory.wf m = true) (i : Nat) (b : Byte) :
    Memory.read (Memory.write m i b) i = b := by
  induction m with
  | nil =>
    simp only [Memory.write]
    split
    · rename_i hb; simp [Memory.read, hb]
    · simp [Memory.read]
  | cons q m ih =>
    obtain ⟨a, x⟩ := q
    have hlt := Memory.lt_of_mem h
    have htl := ((Memory.wf_cons a x m).mp h).2.2
    simp only [Memory.write]
    split
    · rename_i hia
      split
      · rename_i hb
        rw [hb]
        exact Memory.read_of_lt fun cell hc => by
          rcases List.mem_cons.mp hc with rfl | hc
          · exact hia
          · exact Nat.lt_trans hia (hlt cell hc)
      · simp [Memory.read]
    · split
      · rename_i hia
        subst hia
        split
        · rename_i hb
          rw [hb]
          exact Memory.read_of_lt hlt
        · simp [Memory.read]
      · rename_i hia
        simp only [Memory.read]
        rw [if_neg (Ne.symm hia)]
        exact ih htl

/-- A write leaves every other index as it was. -/
theorem Memory.read_write_ne {m : Memory} (h : Memory.wf m = true) {i j : Nat} (hij : j ≠ i) (b : Byte) :
    Memory.read (Memory.write m i b) j = Memory.read m j := by
  induction m with
  | nil =>
    simp only [Memory.write]
    split
    · rfl
    · simp [Memory.read, Ne.symm hij]
  | cons q m ih =>
    obtain ⟨a, x⟩ := q
    have htl := ((Memory.wf_cons a x m).mp h).2.2
    simp only [Memory.write]
    split
    · split
      · rfl
      · simp [Memory.read, Ne.symm hij]
    · split
      · rename_i hia
        subst hia
        split <;> simp [Memory.read, Ne.symm hij]
      · simp only [Memory.read]
        rw [ih htl]

/-- A write adds no index but its own. -/
theorem Memory.mem_write {m : Memory} {i : Nat} {b : Byte} {cell : Host.Cell}
    (h : cell ∈ Memory.write m i b) : cell.1 = i ∨ cell ∈ m := by
  induction m with
  | nil =>
    simp only [Memory.write] at h
    split at h
    · simp at h
    · simp at h; exact .inl (by rw [h])
  | cons q m ih =>
    obtain ⟨a, x⟩ := q
    simp only [Memory.write] at h
    split at h
    · split at h
      · exact .inr h
      · rcases List.mem_cons.mp h with rfl | h
        · exact .inl rfl
        · exact .inr h
    · split at h
      · split at h
        · exact .inr (List.mem_cons_of_mem _ h)
        · rcases List.mem_cons.mp h with rfl | h
          · exact .inl rfl
          · exact .inr (List.mem_cons_of_mem _ h)
      · rcases List.mem_cons.mp h with rfl | h
        · exact .inr (List.mem_cons_self ..)
        · rcases ih h with h | h
          · exact .inl h
          · exact .inr (List.mem_cons_of_mem _ h)

/-- A write keeps the canonical form. -/
theorem Memory.wf_write {m : Memory} (h : Memory.wf m = true) (i : Nat) (b : Byte) :
    Memory.wf (Memory.write m i b) = true := by
  induction m with
  | nil =>
    simp only [Memory.write]
    split
    · rfl
    · rename_i hb; simpa [Memory.wf, bne_iff_ne] using hb
  | cons q m ih =>
    obtain ⟨a, x⟩ := q
    have hc := (Memory.wf_cons a x m).mp h
    simp only [Memory.write]
    split
    · rename_i hia
      split
      · exact h
      · rename_i hb
        exact (Memory.wf_cons ..).mpr ⟨hb, by simpa using hia, h⟩
    · rename_i hia
      split
      · rename_i hie
        split
        · exact hc.2.2
        · rename_i hb
          exact (Memory.wf_cons ..).mpr ⟨hb, by rw [hie]; exact hc.2.1, hc.2.2⟩
      · rename_i hie
        refine (Memory.wf_cons ..).mpr ⟨hc.1, ?_, ih hc.2.2⟩
        intro cell hcell
        have hm : cell ∈ Memory.write m i b := List.mem_of_mem_head? hcell
        rcases Memory.mem_write hm with h1 | h1
        · omega
        · exact Memory.lt_of_mem h cell h1

/-- A block write keeps the canonical form. -/
theorem Memory.wf_writeN {m : Memory} (h : Memory.wf m = true) (i : Nat) (bs : List Byte) :
    Memory.wf (Memory.writeN m i bs) = true := by
  induction bs generalizing m i with
  | nil => exact h
  | cons b bs ih => exact ih (Memory.wf_write h i b) (i + 1)

/-- A block write leaves the indices before it and after it as they were. -/
theorem Memory.read_writeN_outside {m : Memory} (h : Memory.wf m = true) {i j : Nat} (bs : List Byte)
    (hj : j < i ∨ i + bs.length ≤ j) : Memory.read (Memory.writeN m i bs) j = Memory.read m j := by
  induction bs generalizing m i with
  | nil => rfl
  | cons b bs ih =>
    simp only [List.length_cons] at hj
    simp only [Memory.writeN]
    rw [ih (Memory.wf_write h i b) (by omega), Memory.read_write_ne h (by omega)]

/-- A block write reads back as written. -/
theorem Memory.readN_writeN {m : Memory} (h : Memory.wf m = true) (i : Nat) (bs : List Byte) :
    Memory.readN (Memory.writeN m i bs) i bs.length = bs := by
  induction bs generalizing m i with
  | nil => rfl
  | cons b bs ih =>
    simp only [Memory.writeN, List.length_cons, Memory.readN]
    rw [ih (Memory.wf_write h i b), Memory.read_writeN_outside (Memory.wf_write h i b) bs (.inl (by omega)),
      Memory.read_write_self h]

/-- A write outside a block leaves the block as it was. -/
theorem Memory.readN_write_outside {m : Memory} (h : Memory.wf m = true) {i j : Nat} (n : Nat) (b : Byte)
    (hj : j < i ∨ i + n ≤ j) : Memory.readN (Memory.write m j b) i n = Memory.readN m i n := by
  induction n generalizing i with
  | zero => rfl
  | succ n ih =>
    simp only [Memory.readN]
    rw [ih (by omega), Memory.read_write_ne h (by omega)]

/-- A block read, cut at its last byte. -/
theorem Memory.readN_succ (m : Memory) (i n : Nat) :
    Memory.readN m i (n + 1) = Memory.readN m i n ++ [Memory.read m (i + n)] := by
  induction n generalizing i with
  | zero => rfl
  | succ n ih =>
    rw [Memory.readN, ih (i + 1)]
    simp [Memory.readN, Nat.add_assoc, Nat.add_comm 1 n]

@[simp] theorem Memory.readN_length (m : Memory) (i n : Nat) : (Memory.readN m i n).length = n := by
  induction n generalizing i with
  | zero => rfl
  | succ n ih => simp [Memory.readN, ih]

/-- The capacity and the canonical form together. -/
theorem Memory.ok_iff (m : Memory) : Memory.ok m = true ↔ Memory.wf m = true ∧ ∀ cell ∈ m, cell.1 < bufSize := by
  simp [Memory.ok]

/-- A write inside the capacity keeps both. -/
theorem Memory.ok_write {m : Memory} (h : Memory.ok m = true) {i : Nat} (hi : i < bufSize) (b : Byte) :
    Memory.ok (Memory.write m i b) = true := by
  rw [Memory.ok_iff] at h ⊢
  refine ⟨Memory.wf_write h.1 i b, fun cell hc => ?_⟩
  rcases Memory.mem_write hc with h1 | h1
  · omega
  · exact h.2 cell h1

/-- A block write inside the capacity keeps both. -/
theorem Memory.ok_writeN {m : Memory} (h : Memory.ok m = true) (i : Nat) (bs : List Byte)
    (hi : i + bs.length ≤ bufSize) : Memory.ok (Memory.writeN m i bs) = true := by
  induction bs generalizing m i with
  | nil => exact h
  | cons b bs ih =>
    simp only [List.length_cons] at hi
    exact ih (Memory.ok_write h (by omega) b) (i + 1) (by omega)

/-- The empty buffer, which is every buffer after reset, is canonical and within its capacity. -/
theorem Memory.ok_nil : Memory.ok [] = true := rfl

/-- The reset buffers are canonical. -/
theorem Chan.reset_buffers : Memory.wf Chan.reset.rxBuf = true ∧ Memory.wf Chan.reset.txBuf = true := ⟨rfl, rfl⟩

end Sys2Proof.Machine
end

