-- ==== Sys2Proof/Laws/State.lean ====
section
/-! SUPPORT. What each update of the state does to each field, one lemma per field, for simp. -/

namespace Sys2Proof.Machine

@[simp] theorem State.setChan_config (s : State) (c : ChanId) (ch : Chan) : (s.setChan c ch).config = s.config := rfl
@[simp] theorem State.setChan_cfg (s : State) (c : ChanId) (ch : Chan) : (s.setChan c ch).cfg = s.cfg := rfl
@[simp] theorem State.setChan_chans (s : State) (c : ChanId) (ch : Chan) : (s.setChan c ch).chans = s.chans.set c ch := rfl
@[simp] theorem State.setChan_reg (s : State) (c : ChanId) (ch : Chan) : (s.setChan c ch).reg = s.reg := rfl
@[simp] theorem State.setChan_locks (s : State) (c : ChanId) (ch : Chan) : (s.setChan c ch).locks = s.locks := rfl
@[simp] theorem State.setChan_medium (s : State) (c : ChanId) (ch : Chan) : (s.setChan c ch).medium = s.medium := rfl
@[simp] theorem State.setChan_bcasts (s : State) (c : ChanId) (ch : Chan) : (s.setChan c ch).bcasts = s.bcasts := rfl
@[simp] theorem State.setChan_nextBc (s : State) (c : ChanId) (ch : Chan) : (s.setChan c ch).nextBc = s.nextBc := rfl
@[simp] theorem State.setChan_now (s : State) (c : ChanId) (ch : Chan) : (s.setChan c ch).now = s.now := rfl
@[simp] theorem State.setChan_out (s : State) (c : ChanId) (ch : Chan) : (s.setChan c ch).out = s.out := rfl
@[simp] theorem State.setChan_script (s : State) (c : ChanId) (ch : Chan) : (s.setChan c ch).script = s.script := rfl

@[simp] theorem State.setLock_config (s : State) (m : MediumId) (l : Lock) : (s.setLock m l).config = s.config := rfl
@[simp] theorem State.setLock_cfg (s : State) (m : MediumId) (l : Lock) : (s.setLock m l).cfg = s.cfg := rfl
@[simp] theorem State.setLock_chans (s : State) (m : MediumId) (l : Lock) : (s.setLock m l).chans = s.chans := rfl
@[simp] theorem State.setLock_reg (s : State) (m : MediumId) (l : Lock) : (s.setLock m l).reg = s.reg := rfl
@[simp] theorem State.setLock_locks (s : State) (m : MediumId) (l : Lock) : (s.setLock m l).locks = s.locks.set m l := rfl
@[simp] theorem State.setLock_medium (s : State) (m : MediumId) (l : Lock) : (s.setLock m l).medium = s.medium := rfl
@[simp] theorem State.setLock_bcasts (s : State) (m : MediumId) (l : Lock) : (s.setLock m l).bcasts = s.bcasts := rfl
@[simp] theorem State.setLock_nextBc (s : State) (m : MediumId) (l : Lock) : (s.setLock m l).nextBc = s.nextBc := rfl
@[simp] theorem State.setLock_now (s : State) (m : MediumId) (l : Lock) : (s.setLock m l).now = s.now := rfl
@[simp] theorem State.setLock_out (s : State) (m : MediumId) (l : Lock) : (s.setLock m l).out = s.out := rfl
@[simp] theorem State.setLock_script (s : State) (m : MediumId) (l : Lock) : (s.setLock m l).script = s.script := rfl

@[simp] theorem State.setReg_config (s : State) (i : SlotId) (r : Option ChanId) : (s.setReg i r).config = s.config := rfl
@[simp] theorem State.setReg_cfg (s : State) (i : SlotId) (r : Option ChanId) : (s.setReg i r).cfg = s.cfg := rfl
@[simp] theorem State.setReg_chans (s : State) (i : SlotId) (r : Option ChanId) : (s.setReg i r).chans = s.chans := rfl
@[simp] theorem State.setReg_reg (s : State) (i : SlotId) (r : Option ChanId) : (s.setReg i r).reg = s.reg.set i r := rfl
@[simp] theorem State.setReg_locks (s : State) (i : SlotId) (r : Option ChanId) : (s.setReg i r).locks = s.locks := rfl
@[simp] theorem State.setReg_medium (s : State) (i : SlotId) (r : Option ChanId) : (s.setReg i r).medium = s.medium := rfl
@[simp] theorem State.setReg_bcasts (s : State) (i : SlotId) (r : Option ChanId) : (s.setReg i r).bcasts = s.bcasts := rfl
@[simp] theorem State.setReg_nextBc (s : State) (i : SlotId) (r : Option ChanId) : (s.setReg i r).nextBc = s.nextBc := rfl
@[simp] theorem State.setReg_now (s : State) (i : SlotId) (r : Option ChanId) : (s.setReg i r).now = s.now := rfl
@[simp] theorem State.setReg_out (s : State) (i : SlotId) (r : Option ChanId) : (s.setReg i r).out = s.out := rfl
@[simp] theorem State.setReg_script (s : State) (i : SlotId) (r : Option ChanId) : (s.setReg i r).script = s.script := rfl

@[simp] theorem State.output_config (s : State) (o : Output) : (s.output o).config = s.config := rfl
@[simp] theorem State.output_cfg (s : State) (o : Output) : (s.output o).cfg = s.cfg := rfl
@[simp] theorem State.output_chans (s : State) (o : Output) : (s.output o).chans = s.chans := rfl
@[simp] theorem State.output_reg (s : State) (o : Output) : (s.output o).reg = s.reg := rfl
@[simp] theorem State.output_locks (s : State) (o : Output) : (s.output o).locks = s.locks := rfl
@[simp] theorem State.output_medium (s : State) (o : Output) : (s.output o).medium = s.medium := rfl
@[simp] theorem State.output_bcasts (s : State) (o : Output) : (s.output o).bcasts = s.bcasts := rfl
@[simp] theorem State.output_nextBc (s : State) (o : Output) : (s.output o).nextBc = s.nextBc := rfl
@[simp] theorem State.output_now (s : State) (o : Output) : (s.output o).now = s.now := rfl
@[simp] theorem State.output_out (s : State) (o : Output) : (s.output o).out = s.out ++ [o] := rfl
@[simp] theorem State.output_script (s : State) (o : Output) : (s.output o).script = s.script := rfl

@[simp] theorem State.emit_config (s : State) (c : ChanId) (b : Byte) : (s.emit c b).config = s.config := rfl
@[simp] theorem State.emit_cfg (s : State) (c : ChanId) (b : Byte) : (s.emit c b).cfg = s.cfg := rfl
@[simp] theorem State.emit_chans (s : State) (c : ChanId) (b : Byte) : (s.emit c b).chans = s.chans := rfl
@[simp] theorem State.emit_reg (s : State) (c : ChanId) (b : Byte) : (s.emit c b).reg = s.reg := rfl
@[simp] theorem State.emit_locks (s : State) (c : ChanId) (b : Byte) : (s.emit c b).locks = s.locks := rfl
@[simp] theorem State.emit_medium (s : State) (c : ChanId) (b : Byte) : (s.emit c b).medium = s.medium := rfl
@[simp] theorem State.emit_bcasts (s : State) (c : ChanId) (b : Byte) : (s.emit c b).bcasts = s.bcasts := rfl
@[simp] theorem State.emit_nextBc (s : State) (c : ChanId) (b : Byte) : (s.emit c b).nextBc = s.nextBc := rfl
@[simp] theorem State.emit_now (s : State) (c : ChanId) (b : Byte) : (s.emit c b).now = s.now := rfl
@[simp] theorem State.emit_out (s : State) (c : ChanId) (b : Byte) : (s.emit c b).out = s.out ++ [.emit c b] := rfl
@[simp] theorem State.emit_script (s : State) (c : ChanId) (b : Byte) : (s.emit c b).script = s.script := rfl

@[simp] theorem State.signal_config (s : State) (l : Level) : (s.signal l).config = s.config := rfl
@[simp] theorem State.signal_cfg (s : State) (l : Level) : (s.signal l).cfg = s.cfg := rfl
@[simp] theorem State.signal_chans (s : State) (l : Level) : (s.signal l).chans = s.chans := rfl
@[simp] theorem State.signal_reg (s : State) (l : Level) : (s.signal l).reg = s.reg := rfl
@[simp] theorem State.signal_locks (s : State) (l : Level) : (s.signal l).locks = s.locks := rfl
@[simp] theorem State.signal_medium (s : State) (l : Level) : (s.signal l).medium = s.medium := rfl
@[simp] theorem State.signal_bcasts (s : State) (l : Level) : (s.signal l).bcasts = s.bcasts := rfl
@[simp] theorem State.signal_nextBc (s : State) (l : Level) : (s.signal l).nextBc = s.nextBc := rfl
@[simp] theorem State.signal_now (s : State) (l : Level) : (s.signal l).now = s.now := rfl
@[simp] theorem State.signal_out (s : State) (l : Level) : (s.signal l).out = s.out ++ [.signal l] := rfl
@[simp] theorem State.signal_script (s : State) (l : Level) : (s.signal l).script = s.script := rfl

@[simp] theorem State.updBcast_config (s : State) (k : BcastId) (f : Bcast → Bcast) : (s.updBcast k f).config = s.config := rfl
@[simp] theorem State.updBcast_cfg (s : State) (k : BcastId) (f : Bcast → Bcast) : (s.updBcast k f).cfg = s.cfg := rfl
@[simp] theorem State.updBcast_chans (s : State) (k : BcastId) (f : Bcast → Bcast) : (s.updBcast k f).chans = s.chans := rfl
@[simp] theorem State.updBcast_reg (s : State) (k : BcastId) (f : Bcast → Bcast) : (s.updBcast k f).reg = s.reg := rfl
@[simp] theorem State.updBcast_locks (s : State) (k : BcastId) (f : Bcast → Bcast) : (s.updBcast k f).locks = s.locks := rfl
@[simp] theorem State.updBcast_medium (s : State) (k : BcastId) (f : Bcast → Bcast) : (s.updBcast k f).medium = s.medium := rfl
@[simp] theorem State.updBcast_bcasts (s : State) (k : BcastId) (f : Bcast → Bcast) : (s.updBcast k f).bcasts = s.bcasts.map fun b => if b.id = k then f b else b := rfl
@[simp] theorem State.updBcast_nextBc (s : State) (k : BcastId) (f : Bcast → Bcast) : (s.updBcast k f).nextBc = s.nextBc := rfl
@[simp] theorem State.updBcast_now (s : State) (k : BcastId) (f : Bcast → Bcast) : (s.updBcast k f).now = s.now := rfl
@[simp] theorem State.updBcast_out (s : State) (k : BcastId) (f : Bcast → Bcast) : (s.updBcast k f).out = s.out := rfl
@[simp] theorem State.updBcast_script (s : State) (k : BcastId) (f : Bcast → Bcast) : (s.updBcast k f).script = s.script := rfl

@[simp] theorem State.beginBcast_config (s : State) (caller : BcastCaller) (t : Nat) (body : List Byte) :
    (s.beginBcast caller t body).config = s.config := rfl
@[simp] theorem State.beginBcast_cfg (s : State) (caller : BcastCaller) (t : Nat) (body : List Byte) :
    (s.beginBcast caller t body).cfg = s.cfg := rfl
@[simp] theorem State.beginBcast_chans (s : State) (caller : BcastCaller) (t : Nat) (body : List Byte) :
    (s.beginBcast caller t body).chans = s.chans := rfl
@[simp] theorem State.beginBcast_reg (s : State) (caller : BcastCaller) (t : Nat) (body : List Byte) :
    (s.beginBcast caller t body).reg = s.reg := rfl
@[simp] theorem State.beginBcast_locks (s : State) (caller : BcastCaller) (t : Nat) (body : List Byte) :
    (s.beginBcast caller t body).locks = s.locks := rfl
@[simp] theorem State.beginBcast_medium (s : State) (caller : BcastCaller) (t : Nat) (body : List Byte) :
    (s.beginBcast caller t body).medium = s.medium := rfl
@[simp] theorem State.beginBcast_now (s : State) (caller : BcastCaller) (t : Nat) (body : List Byte) :
    (s.beginBcast caller t body).now = s.now := rfl
@[simp] theorem State.beginBcast_out (s : State) (caller : BcastCaller) (t : Nat) (body : List Byte) :
    (s.beginBcast caller t body).out = s.out := rfl
@[simp] theorem State.beginBcast_script (s : State) (caller : BcastCaller) (t : Nat) (body : List Byte) :
    (s.beginBcast caller t body).script = s.script := rfl

@[simp] theorem State.mediumOf_setChan (s : State) (c d : ChanId) (ch : Chan) :
    (s.setChan c ch).mediumOf d = s.mediumOf d := rfl

@[simp] theorem State.mediumOf_output (s : State) (o : Output) (d : ChanId) :
    (s.output o).mediumOf d = s.mediumOf d := rfl

@[simp] theorem State.mediumOf_setLock (s : State) (m : MediumId) (l : Lock) (d : ChanId) :
    (s.setLock m l).mediumOf d = s.mediumOf d := rfl

theorem State.setChan_get_self {s : State} {c : ChanId} {ch : Chan} (h : s.chans[c]? = some ch) (ch' : Chan) :
    (s.setChan c ch').chans[c]? = some ch' := by
  have hc : c < s.chans.length := (List.getElem?_eq_some_iff.mp h).1
  simp [hc]

theorem State.setChan_get_ne (s : State) {c d : ChanId} (h : d ≠ c) (ch' : Chan) :
    (s.setChan c ch').chans[d]? = s.chans[d]? := by
  simp [List.getElem?_set_ne (Ne.symm h)]

theorem State.setChan_setChan (s : State) (c : ChanId) (a b : Chan) :
    (s.setChan c a).setChan c b = s.setChan c b := by
  simp [State.setChan]

theorem State.onChan_some {s : State} {c : ChanId} {ch : Chan} (h : s.chans[c]? = some ch) (f : Chan → Answer) :
    s.onChan c f = f ch := by
  simp [State.onChan, h]

theorem State.onChan_none {s : State} {c : ChanId} (h : s.chans[c]? = none) (f : Chan → Answer) :
    s.onChan c f = .fault (.noSuchChannel c) := by
  simp [State.onChan, h]

/-- An operation on a channel that answers a next state had its channel. -/
theorem State.onChan_next {s t : State} {c : ChanId} {f : Chan → Answer} (h : s.onChan c f = .next t) :
    ∃ ch, s.chans[c]? = some ch ∧ f ch = .next t := by
  unfold State.onChan at h
  split at h
  · exact ⟨_, ‹_›, h⟩
  · cases h

theorem State.updChan_some {s : State} {c : ChanId} {ch : Chan} (h : s.chans[c]? = some ch) (f : Chan → Chan) :
    s.updChan c f = s.setChan c (f ch) := by
  simp [State.updChan, h]

theorem State.updChan_none {s : State} {c : ChanId} (h : s.chans[c]? = none) (f : Chan → Chan) :
    s.updChan c f = s := by
  simp [State.updChan, h]

/-- `updChan` changes nothing but the channels. -/
theorem State.updChan_eq (s : State) (c : ChanId) (f : Chan → Chan) :
    s.updChan c f = { s with chans := s.chans.modify c f } := by
  unfold State.updChan
  split
  · rename_i ch h
    obtain ⟨hl, hv⟩ := List.getElem?_eq_some_iff.mp h
    have : s.chans.modify c f = s.chans.set c (f ch) := by
      apply List.ext_getElem?
      intro i
      simp only [List.getElem?_modify, List.getElem?_set]
      by_cases hi : c = i
      · subst hi
        simp [hl, hv]
      · simp [hi]
    simp [State.setChan, this]
  · rename_i h
    have hc : s.chans.length ≤ c := List.getElem?_eq_none_iff.mp h
    simp [List.modify_eq_self, hc]

end Sys2Proof.Machine
end

