-- ==== Sys2Proof/Laws/Ops.lean ====
section
/-! SUPPORT. What the shared operations can do: returning to a caller, raising a failure, selecting and carrying out a
step. Later proofs cite these and do not unfold the operations. -/

namespace Sys2Proof.Machine

/-! ## A worker carries on -/

/-- A worker that carries on moves its place in a composite operation, and nothing else. -/
theorem Chan.resume_eq (ch : Chan) (r : Return) : ∃ ctl, ch.resume r = { ch with ctl := ctl } := by
  unfold Chan.resume
  split <;> exact ⟨_, rfl⟩

@[simp] theorem Chan.resume_rxState (ch : Chan) (r : Return) : (ch.resume r).rxState = ch.rxState := by
  obtain ⟨ctl, h⟩ := ch.resume_eq r
  rw [h]

@[simp] theorem Chan.resume_rxSeq (ch : Chan) (r : Return) : (ch.resume r).rxSeq = ch.rxSeq := by
  obtain ⟨ctl, h⟩ := ch.resume_eq r
  rw [h]

@[simp] theorem Chan.resume_rxMsgid (ch : Chan) (r : Return) : (ch.resume r).rxMsgid = ch.rxMsgid := by
  obtain ⟨ctl, h⟩ := ch.resume_eq r
  rw [h]

@[simp] theorem Chan.resume_rxLen (ch : Chan) (r : Return) : (ch.resume r).rxLen = ch.rxLen := by
  obtain ⟨ctl, h⟩ := ch.resume_eq r
  rw [h]

@[simp] theorem Chan.resume_rxCnt (ch : Chan) (r : Return) : (ch.resume r).rxCnt = ch.rxCnt := by
  obtain ⟨ctl, h⟩ := ch.resume_eq r
  rw [h]

@[simp] theorem Chan.resume_rxCrc (ch : Chan) (r : Return) : (ch.resume r).rxCrc = ch.rxCrc := by
  obtain ⟨ctl, h⟩ := ch.resume_eq r
  rw [h]

@[simp] theorem Chan.resume_rxBuf (ch : Chan) (r : Return) : (ch.resume r).rxBuf = ch.rxBuf := by
  obtain ⟨ctl, h⟩ := ch.resume_eq r
  rw [h]

@[simp] theorem Chan.resume_rxs (ch : Chan) (r : Return) : (ch.resume r).rxs = ch.rxs := by
  obtain ⟨ctl, h⟩ := ch.resume_eq r
  rw [h]

@[simp] theorem Chan.resume_txSeq (ch : Chan) (r : Return) : (ch.resume r).txSeq = ch.txSeq := by
  obtain ⟨ctl, h⟩ := ch.resume_eq r
  rw [h]

@[simp] theorem Chan.resume_txBuf (ch : Chan) (r : Return) : (ch.resume r).txBuf = ch.txBuf := by
  obtain ⟨ctl, h⟩ := ch.resume_eq r
  rw [h]

@[simp] theorem Chan.resume_txLen (ch : Chan) (r : Return) : (ch.resume r).txLen = ch.txLen := by
  obtain ⟨ctl, h⟩ := ch.resume_eq r
  rw [h]

@[simp] theorem Chan.resume_txPhase (ch : Chan) (r : Return) : (ch.resume r).txPhase = ch.txPhase := by
  obtain ⟨ctl, h⟩ := ch.resume_eq r
  rw [h]

@[simp] theorem Chan.resume_txIdx (ch : Chan) (r : Return) : (ch.resume r).txIdx = ch.txIdx := by
  obtain ⟨ctl, h⟩ := ch.resume_eq r
  rw [h]

@[simp] theorem Chan.resume_txCrc (ch : Chan) (r : Return) : (ch.resume r).txCrc = ch.txCrc := by
  obtain ⟨ctl, h⟩ := ch.resume_eq r
  rw [h]

@[simp] theorem Chan.resume_txHdrSeq (ch : Chan) (r : Return) : (ch.resume r).txHdrSeq = ch.txHdrSeq := by
  obtain ⟨ctl, h⟩ := ch.resume_eq r
  rw [h]

@[simp] theorem Chan.resume_txHdrMsgid (ch : Chan) (r : Return) : (ch.resume r).txHdrMsgid = ch.txHdrMsgid := by
  obtain ⟨ctl, h⟩ := ch.resume_eq r
  rw [h]

@[simp] theorem Chan.resume_txJob (ch : Chan) (r : Return) : (ch.resume r).txJob = ch.txJob := by
  obtain ⟨ctl, h⟩ := ch.resume_eq r
  rw [h]

@[simp] theorem Chan.resume_sesPhase (ch : Chan) (r : Return) : (ch.resume r).sesPhase = ch.sesPhase := by
  obtain ⟨ctl, h⟩ := ch.resume_eq r
  rw [h]

@[simp] theorem Chan.resume_sesSlot (ch : Chan) (r : Return) : (ch.resume r).sesSlot = ch.sesSlot := by
  obtain ⟨ctl, h⟩ := ch.resume_eq r
  rw [h]

@[simp] theorem Chan.resume_sesTermReq (ch : Chan) (r : Return) : (ch.resume r).sesTermReq = ch.sesTermReq := by
  obtain ⟨ctl, h⟩ := ch.resume_eq r
  rw [h]

@[simp] theorem Chan.resume_sesLastStatus (ch : Chan) (r : Return) : (ch.resume r).sesLastStatus = ch.sesLastStatus := by
  obtain ⟨ctl, h⟩ := ch.resume_eq r
  rw [h]

/-- A receiver step without a result moves the place of a pending `receive`, and nothing else. -/
theorem Chan.rxContinue_eq (ch : Chan) : ∃ ctl, ch.rxContinue = { ch with ctl := ctl } := by
  unfold Chan.rxContinue
  split <;> exact ⟨_, rfl⟩

@[simp] theorem Chan.rxContinue_rxState (ch : Chan) : ch.rxContinue.rxState = ch.rxState := by
  obtain ⟨ctl, h⟩ := ch.rxContinue_eq
  rw [h]

@[simp] theorem Chan.rxContinue_rxSeq (ch : Chan) : ch.rxContinue.rxSeq = ch.rxSeq := by
  obtain ⟨ctl, h⟩ := ch.rxContinue_eq
  rw [h]

@[simp] theorem Chan.rxContinue_rxMsgid (ch : Chan) : ch.rxContinue.rxMsgid = ch.rxMsgid := by
  obtain ⟨ctl, h⟩ := ch.rxContinue_eq
  rw [h]

@[simp] theorem Chan.rxContinue_rxLen (ch : Chan) : ch.rxContinue.rxLen = ch.rxLen := by
  obtain ⟨ctl, h⟩ := ch.rxContinue_eq
  rw [h]

@[simp] theorem Chan.rxContinue_rxCnt (ch : Chan) : ch.rxContinue.rxCnt = ch.rxCnt := by
  obtain ⟨ctl, h⟩ := ch.rxContinue_eq
  rw [h]

@[simp] theorem Chan.rxContinue_rxCrc (ch : Chan) : ch.rxContinue.rxCrc = ch.rxCrc := by
  obtain ⟨ctl, h⟩ := ch.rxContinue_eq
  rw [h]

@[simp] theorem Chan.rxContinue_rxBuf (ch : Chan) : ch.rxContinue.rxBuf = ch.rxBuf := by
  obtain ⟨ctl, h⟩ := ch.rxContinue_eq
  rw [h]

@[simp] theorem Chan.rxContinue_rxs (ch : Chan) : ch.rxContinue.rxs = ch.rxs := by
  obtain ⟨ctl, h⟩ := ch.rxContinue_eq
  rw [h]

@[simp] theorem Chan.rxContinue_txSeq (ch : Chan) : ch.rxContinue.txSeq = ch.txSeq := by
  obtain ⟨ctl, h⟩ := ch.rxContinue_eq
  rw [h]

@[simp] theorem Chan.rxContinue_txBuf (ch : Chan) : ch.rxContinue.txBuf = ch.txBuf := by
  obtain ⟨ctl, h⟩ := ch.rxContinue_eq
  rw [h]

@[simp] theorem Chan.rxContinue_txLen (ch : Chan) : ch.rxContinue.txLen = ch.txLen := by
  obtain ⟨ctl, h⟩ := ch.rxContinue_eq
  rw [h]

@[simp] theorem Chan.rxContinue_txPhase (ch : Chan) : ch.rxContinue.txPhase = ch.txPhase := by
  obtain ⟨ctl, h⟩ := ch.rxContinue_eq
  rw [h]

@[simp] theorem Chan.rxContinue_txIdx (ch : Chan) : ch.rxContinue.txIdx = ch.txIdx := by
  obtain ⟨ctl, h⟩ := ch.rxContinue_eq
  rw [h]

@[simp] theorem Chan.rxContinue_txCrc (ch : Chan) : ch.rxContinue.txCrc = ch.txCrc := by
  obtain ⟨ctl, h⟩ := ch.rxContinue_eq
  rw [h]

@[simp] theorem Chan.rxContinue_txHdrSeq (ch : Chan) : ch.rxContinue.txHdrSeq = ch.txHdrSeq := by
  obtain ⟨ctl, h⟩ := ch.rxContinue_eq
  rw [h]

@[simp] theorem Chan.rxContinue_txHdrMsgid (ch : Chan) : ch.rxContinue.txHdrMsgid = ch.txHdrMsgid := by
  obtain ⟨ctl, h⟩ := ch.rxContinue_eq
  rw [h]

@[simp] theorem Chan.rxContinue_txJob (ch : Chan) : ch.rxContinue.txJob = ch.txJob := by
  obtain ⟨ctl, h⟩ := ch.rxContinue_eq
  rw [h]

@[simp] theorem Chan.rxContinue_sesPhase (ch : Chan) : ch.rxContinue.sesPhase = ch.sesPhase := by
  obtain ⟨ctl, h⟩ := ch.rxContinue_eq
  rw [h]

@[simp] theorem Chan.rxContinue_sesSlot (ch : Chan) : ch.rxContinue.sesSlot = ch.sesSlot := by
  obtain ⟨ctl, h⟩ := ch.rxContinue_eq
  rw [h]

@[simp] theorem Chan.rxContinue_sesTermReq (ch : Chan) : ch.rxContinue.sesTermReq = ch.sesTermReq := by
  obtain ⟨ctl, h⟩ := ch.rxContinue_eq
  rw [h]

@[simp] theorem Chan.rxContinue_sesLastStatus (ch : Chan) : ch.rxContinue.sesLastStatus = ch.sesLastStatus := by
  obtain ⟨ctl, h⟩ := ch.rxContinue_eq
  rw [h]

/-! ## Returning -/

@[simp] theorem State.resume_driver (s : State) (r : Return) : s.resume .driver r = s := rfl

theorem State.resume_worker {s : State} {c : ChanId} {ch : Chan} (h : s.chans[c]? = some ch) (r : Return) :
    s.resume (.worker c) r = { s.setChan c (ch.resume r) with out := s.out ++ ch.resumeOutput c r } := by
  simp [State.resume, h]

theorem State.resume_worker_none {s : State} {c : ChanId} (h : s.chans[c]? = none) (r : Return) :
    s.resume (.worker c) r = s := by
  simp [State.resume, h]

theorem State.resume_bcast {s : State} {k : BcastId} {b : Bcast} (h : s.findBcast k = some b) (r : Return) :
    s.resume (.bcast k) r = s.resumeBcast b r := by
  simp [State.resume, h]

theorem State.resume_bcast_none {s : State} {k : BcastId} (h : s.findBcast k = none) (r : Return) :
    s.resume (.bcast k) r = s := by
  simp [State.resume, h]

/-- The return of a broadcast changes the contexts, its caller's place (and a stopping worker's phase), and the
outputs. -/
theorem State.bcastReturn_eq (s : State) (b : Bcast) (r : Result) :
    ∃ chans, s.bcastReturn b r =
      { s with
        bcasts := s.bcasts.filter fun b' => b'.id != b.id
        out := s.out ++ [.bcastDone b.caller r]
        chans := chans } := by
  unfold State.bcastReturn
  cases b.caller with
  | driver => exact ⟨s.chans, rfl⟩
  | handler c =>
    simp only [State.updChan_eq]
    exact ⟨_, rfl⟩
  | stop c =>
    simp only [State.updChan_eq]
    exact ⟨_, rfl⟩

/-- A broadcast that carries on changes the contexts, its caller's place, and the outputs. -/
theorem State.resumeBcast_eq (s : State) (b : Bcast) (r : Return) :
    ∃ chans bcasts out, s.resumeBcast b r = { s with chans := chans, bcasts := bcasts, out := out } := by
  unfold State.resumeBcast
  split
  case h_9 =>
    obtain ⟨chans, h⟩ := s.bcastReturn_eq b (.encFail ‹EncCause›)
    exact ⟨_, _, _, h⟩
  all_goals exact ⟨_, _, _, rfl⟩

/-- A caller that carries on changes the channels, the contexts and the outputs only. -/
theorem State.resume_eq (s : State) (a : Agent) (r : Return) :
    ∃ chans bcasts out, s.resume a r = { s with chans := chans, bcasts := bcasts, out := out } := by
  cases a with
  | driver => exact ⟨s.chans, s.bcasts, s.out, rfl⟩
  | worker c =>
    cases h : s.chans[c]? with
    | none => exact ⟨s.chans, s.bcasts, s.out, by rw [State.resume_worker_none h]⟩
    | some ch => exact ⟨_, _, _, by rw [State.resume_worker h]; rfl⟩
  | bcast k =>
    cases h : s.findBcast k with
    | none => exact ⟨s.chans, s.bcasts, s.out, by rw [State.resume_bcast_none h]⟩
    | some b =>
      obtain ⟨chans, bcasts, out, e⟩ := s.resumeBcast_eq b r
      exact ⟨chans, bcasts, out, by rw [State.resume_bcast h, e]⟩

@[simp] theorem State.resume_config (s : State) (a : Agent) (r : Return) : (s.resume a r).config = s.config := by
  obtain ⟨_, _, _, h⟩ := s.resume_eq a r
  rw [h]

@[simp] theorem State.ret_config (s : State) (a : Agent) (r : Result) : (s.ret a r).config = s.config := by
  simp [State.ret]

@[simp] theorem State.resume_cfg (s : State) (a : Agent) (r : Return) : (s.resume a r).cfg = s.cfg := by
  obtain ⟨_, _, _, h⟩ := s.resume_eq a r
  rw [h]

@[simp] theorem State.ret_cfg (s : State) (a : Agent) (r : Result) : (s.ret a r).cfg = s.cfg := by
  simp [State.ret]

@[simp] theorem State.resume_reg (s : State) (a : Agent) (r : Return) : (s.resume a r).reg = s.reg := by
  obtain ⟨_, _, _, h⟩ := s.resume_eq a r
  rw [h]

@[simp] theorem State.ret_reg (s : State) (a : Agent) (r : Result) : (s.ret a r).reg = s.reg := by
  simp [State.ret]

@[simp] theorem State.resume_locks (s : State) (a : Agent) (r : Return) : (s.resume a r).locks = s.locks := by
  obtain ⟨_, _, _, h⟩ := s.resume_eq a r
  rw [h]

@[simp] theorem State.ret_locks (s : State) (a : Agent) (r : Result) : (s.ret a r).locks = s.locks := by
  simp [State.ret]

@[simp] theorem State.resume_medium (s : State) (a : Agent) (r : Return) : (s.resume a r).medium = s.medium := by
  obtain ⟨_, _, _, h⟩ := s.resume_eq a r
  rw [h]

@[simp] theorem State.ret_medium (s : State) (a : Agent) (r : Result) : (s.ret a r).medium = s.medium := by
  simp [State.ret]

@[simp] theorem State.resume_nextBc (s : State) (a : Agent) (r : Return) : (s.resume a r).nextBc = s.nextBc := by
  obtain ⟨_, _, _, h⟩ := s.resume_eq a r
  rw [h]

@[simp] theorem State.ret_nextBc (s : State) (a : Agent) (r : Result) : (s.ret a r).nextBc = s.nextBc := by
  simp [State.ret]

@[simp] theorem State.resume_now (s : State) (a : Agent) (r : Return) : (s.resume a r).now = s.now := by
  obtain ⟨_, _, _, h⟩ := s.resume_eq a r
  rw [h]

@[simp] theorem State.ret_now (s : State) (a : Agent) (r : Result) : (s.ret a r).now = s.now := by
  simp [State.ret]

@[simp] theorem State.resume_script (s : State) (a : Agent) (r : Return) : (s.resume a r).script = s.script := by
  obtain ⟨_, _, _, h⟩ := s.resume_eq a r
  rw [h]

@[simp] theorem State.ret_script (s : State) (a : Agent) (r : Result) : (s.ret a r).script = s.script := by
  simp [State.ret]

/-- A result returned to a worker (R284): it is put out, and the worker's place moves. -/
theorem State.ret_worker {s : State} {c : ChanId} {ch : Chan} (h : s.chans[c]? = some ch) (r : Result) :
    s.ret (.worker c) r =
      { s.setChan c (ch.resume (.result r)) with out := s.out ++ [.result (.worker c) r] } := by
  have hc : (s.output (.result (.worker c) r)).chans[c]? = some ch := h
  have ho : ch.resumeOutput c (.result r) = [] := by
    unfold Chan.resumeOutput
    split
    · rename_i heq; cases heq
    · rfl
  rw [State.ret, State.resume_worker hc, ho]
  simp [State.setChan, State.output]

/-- A result returned to the driver is put out (R284). -/
theorem State.ret_driver (s : State) (r : Result) : s.ret .driver r = s.output (.result .driver r) := rfl

/-! ## The body codec -/

/-- A value that `body_decode` gives is one of the type `Body v` (R181). -/
theorem bodyDecode_ok {k : Config} {v : Variant} {body : List Byte} {x : BodyVal} (h : bodyDecode k v body = some x) :
    bodyOk k v x = true := by
  unfold bodyDecode at h
  unfold bodyOk
  split at h
  · rfl
  · exact (Option.filter_eq_some_iff.1 h).2

/-! ## Broadcast contexts -/

/-- A context that is found carries the number asked for. -/
theorem State.findBcast_id {s : State} {k : BcastId} {b : Bcast} (h : s.findBcast k = some b) : b.id = k := by
  simpa using List.find?_some h

/-- A change of one context, its number kept, is found under that number and leaves the others as they are. -/
theorem State.findBcast_updBcast (s : State) (k j : BcastId) {f : Bcast → Bcast} (hf : ∀ b, (f b).id = b.id) :
    (s.updBcast k f).findBcast j = if j = k then (s.findBcast k).map f else s.findBcast j := by
  have hp : ((fun b : Bcast => b.id == j) ∘ fun b => if b.id = k then f b else b) = fun b => b.id == j := by
    funext b
    simp only [Function.comp]
    split <;> simp [hf]
  unfold State.updBcast State.findBcast
  simp only
  rw [List.find?_map, hp]
  split
  · rename_i hj
    subst hj
    cases h : s.bcasts.find? fun b => b.id == j with
    | none => rfl
    | some b => simp [show b.id = j by simpa using List.find?_some h]
  · rename_i hj
    cases h : s.bcasts.find? fun b => b.id == j with
    | none => rfl
    | some b => simp [show b.id = j by simpa using List.find?_some h, hj]

/-- After a broadcast has returned its context is not found, and the others are as they were. -/
theorem State.findBcast_bcastReturn (s : State) (b : Bcast) (r : Result) (j : BcastId) :
    (s.bcastReturn b r).findBcast j = if j = b.id then none else s.findBcast j := by
  obtain ⟨chans, e⟩ := s.bcastReturn_eq b r
  rw [e]
  unfold State.findBcast
  simp only
  rw [List.find?_filter]
  split
  · rename_i hj
    subst hj
    simp
  · rename_i hj
    congr 1
    funext b'
    by_cases h : b'.id = j <;> simp [h, hj]

/-! ## Raising -/

/-- `START_FAIL` at a worker (R280): no signal, no register. -/
theorem State.raise_startFail (s : State) (c : ChanId) : s.raise (.startFail c) = s.ret (.worker c) .startFail := rfl

/-- `RX_FAIL` (R273, R274): the signal, the phase, the result. -/
theorem State.raise_rxFail {s : State} {c : ChanId} {ch : Chan} (h : s.chans[c]? = some ch) (cause : RxCause) :
    s.raise (.rxFail c cause) =
      ((s.signal .fail).setChan c { ch with rxState := .waitStart }).ret (.worker c) (.rxFail cause) := by
  have hc : (s.signal .fail).chans[c]? = some ch := h
  simp [State.raise, Failure.writePhase, Failure.level, Failure.caller, Failure.result, State.signalOpt,
    State.updChan_some hc]

/-- `TX_FAIL` (R279): the signal, the phase, the result. -/
theorem State.raise_txFail {s : State} {c : ChanId} {ch : Chan} (h : s.chans[c]? = some ch) (a : Agent) :
    s.raise (.txFail c a) =
      ((s.signal .fail).setChan c { ch with txPhase := .idle, txJob := .none }).ret a .txFail := by
  have hc : (s.signal .fail).chans[c]? = some ch := h
  simp [State.raise, Failure.writePhase, Failure.level, Failure.caller, Failure.result, State.signalOpt,
    State.updChan_some hc]

/-- `ENC_FAIL` (R278): the signal and the result. -/
theorem State.raise_encFail (s : State) (a : Agent) (cause : EncCause) :
    s.raise (.encFail a cause) = (s.signal .fail).ret a (.encFail cause) := rfl

/-- `BODY_FAIL` (R276): the signal and the result. -/
theorem State.raise_bodyFail (s : State) (a : Agent) :
    s.raise (.bodyFail a) = (s.signal .fail).ret a .bodyFail := rfl

/-! ## A step -/

/-- Everything a step that goes on can have done: nothing, for want of a stimulus; what the stimulus itself does; or one
operation, in the state the stimulus left. -/
theorem step_next {s t : State} (h : step s = .next t) :
    (s.script = [] ∧ t = s) ∨
    ∃ σ rest, s.script = σ :: rest ∧
      ((State.plan { s with script := rest } σ) = .answer (.next t) ∨
       ∃ i s', (State.plan { s with script := rest } σ) = .run i s' ∧ exec i s' = .next t) := by
  unfold step at h
  split at h
  · rename_i hs
    exact .inl ⟨hs, by injection h with h; exact h.symm⟩
  · rename_i σ rest hs
    refine .inr ⟨σ, rest, hs, ?_⟩
    cases hp : State.plan { s with script := rest } σ with
    | answer a =>
      rw [hp] at h
      exact .inl (by rw [← h]; rfl)
    | run i s' =>
      rw [hp] at h
      exact .inr ⟨i, s', rfl, h⟩

/-- An operation word that runs was selected (R110). -/
theorem wordInput_run {s s' : State} {word : List Byte} {i : Instr} (h : wordInput s word = .run i s') :
    decodeWord s.config.start word = .ok i ∧ selected s i = some s' := by
  unfold wordInput at h
  split at h
  · cases h
  · rename_i j hj
    split at h
    · rename_i s0 hs
      cases h
      exact ⟨hj, hs⟩
    · cases h

/-- An operation is selected by itself, as the CRC and a frame are, or by its stimulus. -/
theorem selected_some {s s' : State} {i : Instr} (h : selected s i = some s') :
    (triggerOf s.config.start i = .direct ∧ s' = s) ∨
    ∃ σ, triggerOf s.config.start i = .stim σ ∧ present s σ = .run i s' := by
  unfold selected at h
  split at h
  · rename_i ht
    exact .inl ⟨ht, by simpa using h.symm⟩
  · cases h
  · rename_i σ ht
    refine .inr ⟨σ, ht, ?_⟩
    split at h
    · rename_i j s0 hp
      split at h
      · rename_i hj
        subst hj
        cases h
        exact hp
      · cases h
    · cases h

/-- What an operation word leaves if it does not run: the state as it is. -/
theorem wordInput_answer {s t : State} {word : List Byte} (h : wordInput s word = .answer (.next t)) : t = s := by
  unfold wordInput at h
  split at h
  · cases h
  · split at h
    · cases h
    · cases h
      rfl

end Sys2Proof.Machine
end

