-- ==== Sys2Proof/Laws/PerInstr.lean ====
section
/-! SUPPORT. What holds of every operation as syntax, constructor by constructor. -/

namespace Sys2Proof.Laws.EncodeHead

/-- The first byte of an operation's word: the key byte of an ENV row (R98), the start marker for `RX.START`, and the
model's own code for the others (log entry 2). -/
def firstByte : Instr → Byte
  | .crc8Update _ _ => opcodeByte .crc8Update
  | .crc8Block _ _ => opcodeByte .crc8Block
  | .rxStart _ => opcodeByte .rxStart
  | .rxDiscard _ _ => opcodeByte .rxDiscard
  | .rxSeq _ _ => opcodeByte .rxSeq
  | .rxMsgid _ _ => opcodeByte .rxMsgid
  | .rxLen _ _ => opcodeByte .rxLen
  | .rxPayload _ _ => opcodeByte .rxPayload
  | .rxCrc _ _ => opcodeByte .rxCrc
  | .rxIdleTmo _ => opcodeByte .rxIdleTmo
  | .rxBulkTmo _ => opcodeByte .rxBulkTmo
  | .rxIdleRst _ => opcodeByte .rxIdleRst
  | .rxBulkRst _ => opcodeByte .rxBulkRst
  | .rxReceive _ => opcodeByte .rxReceive
  | .txSend _ _ => opcodeByte .txSend
  | .txRaw _ _ => opcodeByte .txRaw
  | .lockAcq _ _ => opcodeByte .lockAcq
  | .lockRel _ _ => opcodeByte .lockRel
  | .envEncode _ _ _ _ => opcodeByte .envEncode
  | .envDiscriminate _ => opcodeByte .envDiscriminate
  | .envBody _ _ => opcodeByte .envBody
  | .regClaim _ _ => opcodeByte .regClaim
  | .regClear _ => opcodeByte .regClear
  | .bcastSend _ => opcodeByte .bcastSend
  | .sesStart _ _ => opcodeByte .sesStart
  | .sesCheckTerm _ => opcodeByte .sesCheckTerm
  | .sesStatus _ _ => opcodeByte .sesStatus
  | .sesReceive _ => opcodeByte .sesReceive
  | .sesDispatch _ _ => opcodeByte .sesDispatch
  | .sesSend _ _ _ => opcodeByte .sesSend
  | .sesStop _ => opcodeByte .sesStop
  | .frame _ _ _ _ _ => opcodeByte .frame
  | .envStatus _ w => keyByte .status w
  | .envStatusText _ w => keyByte .statusText w
  | .envTimeReference _ w => keyByte .timeReference w
  | .envCommand _ w => keyByte .command w
  | .envParamRequest _ w => keyByte .paramRequest w
  | .envParamSet _ w => keyByte .paramSet w
  | .envParamValue _ w => keyByte .paramValue w
  | .envLogRequest _ w => keyByte .logRequest w
  | .envMemoryDumpRequest _ w => keyByte .memoryDumpRequest w
  | .envMemoryDumpPage _ w => keyByte .memoryDumpPage w

/-- The word of an operation begins with its first byte, and so is never empty. -/
def Statement (i : Instr) : Prop := ∀ start, (encode start i).head? = some (firstByte i)

theorem crc8Update : ∀ x0 x1, Statement (.crc8Update x0 x1) := fun _ _ _ => rfl
theorem crc8Block : ∀ x0 x1, Statement (.crc8Block x0 x1) := fun _ _ _ => rfl
theorem rxStart : ∀ x0, Statement (.rxStart x0) := fun _ _ => rfl
theorem rxDiscard : ∀ x0 x1, Statement (.rxDiscard x0 x1) := fun _ _ _ => rfl
theorem rxSeq : ∀ x0 x1, Statement (.rxSeq x0 x1) := fun _ _ _ => rfl
theorem rxMsgid : ∀ x0 x1, Statement (.rxMsgid x0 x1) := fun _ _ _ => rfl
theorem rxLen : ∀ x0 x1, Statement (.rxLen x0 x1) := fun _ _ _ => rfl
theorem rxPayload : ∀ x0 x1, Statement (.rxPayload x0 x1) := fun _ _ _ => rfl
theorem rxCrc : ∀ x0 x1, Statement (.rxCrc x0 x1) := fun _ _ _ => rfl
theorem rxIdleTmo : ∀ x0, Statement (.rxIdleTmo x0) := fun _ _ => rfl
theorem rxBulkTmo : ∀ x0, Statement (.rxBulkTmo x0) := fun _ _ => rfl
theorem rxIdleRst : ∀ x0, Statement (.rxIdleRst x0) := fun _ _ => rfl
theorem rxBulkRst : ∀ x0, Statement (.rxBulkRst x0) := fun _ _ => rfl
theorem rxReceive : ∀ x0, Statement (.rxReceive x0) := fun _ _ => rfl
theorem txSend : ∀ x0 x1, Statement (.txSend x0 x1) := fun _ _ _ => rfl
theorem txRaw : ∀ x0 x1, Statement (.txRaw x0 x1) := fun _ _ _ => rfl
theorem lockAcq : ∀ x0 x1, Statement (.lockAcq x0 x1) := fun _ _ _ => rfl
theorem lockRel : ∀ x0 x1, Statement (.lockRel x0 x1) := fun _ _ _ => rfl
theorem envEncode : ∀ x0 x1 x2 x3, Statement (.envEncode x0 x1 x2 x3) := fun _ _ _ _ _ => rfl
theorem envDiscriminate : ∀ x0, Statement (.envDiscriminate x0) := fun _ _ => rfl
theorem envBody : ∀ x0 x1, Statement (.envBody x0 x1) := fun _ _ _ => rfl
theorem regClaim : ∀ x0 x1, Statement (.regClaim x0 x1) := fun _ _ _ => rfl
theorem regClear : ∀ x0, Statement (.regClear x0) := fun _ _ => rfl
theorem bcastSend : ∀ x0, Statement (.bcastSend x0) := fun _ _ => rfl
theorem sesStart : ∀ x0 x1, Statement (.sesStart x0 x1) := fun _ _ _ => rfl
theorem sesCheckTerm : ∀ x0, Statement (.sesCheckTerm x0) := fun _ _ => rfl
theorem sesStatus : ∀ x0 x1, Statement (.sesStatus x0 x1) := fun _ _ _ => rfl
theorem sesReceive : ∀ x0, Statement (.sesReceive x0) := fun _ _ => rfl
theorem sesDispatch : ∀ x0 x1, Statement (.sesDispatch x0 x1) := fun _ _ _ => rfl
theorem sesSend : ∀ x0 x1 x2, Statement (.sesSend x0 x1 x2) := fun _ _ _ _ => rfl
theorem sesStop : ∀ x0, Statement (.sesStop x0) := fun _ _ => rfl
theorem frame : ∀ x0 x1 x2 x3 x4, Statement (.frame x0 x1 x2 x3 x4) := fun _ _ _ _ _ _ => rfl
theorem envStatus : ∀ x0 x1, Statement (.envStatus x0 x1) := fun _ _ _ => rfl
theorem envStatusText : ∀ x0 x1, Statement (.envStatusText x0 x1) := fun _ _ _ => rfl
theorem envTimeReference : ∀ x0 x1, Statement (.envTimeReference x0 x1) := fun _ _ _ => rfl
theorem envCommand : ∀ x0 x1, Statement (.envCommand x0 x1) := fun _ _ _ => rfl
theorem envParamRequest : ∀ x0 x1, Statement (.envParamRequest x0 x1) := fun _ _ _ => rfl
theorem envParamSet : ∀ x0 x1, Statement (.envParamSet x0 x1) := fun _ _ _ => rfl
theorem envParamValue : ∀ x0 x1, Statement (.envParamValue x0 x1) := fun _ _ _ => rfl
theorem envLogRequest : ∀ x0 x1, Statement (.envLogRequest x0 x1) := fun _ _ _ => rfl
theorem envMemoryDumpRequest : ∀ x0 x1, Statement (.envMemoryDumpRequest x0 x1) := fun _ _ _ => rfl
theorem envMemoryDumpPage : ∀ x0 x1, Statement (.envMemoryDumpPage x0 x1) := fun _ _ _ => rfl

end Sys2Proof.Laws.EncodeHead
end

