-- ==== Sys2Proof/Laws/Ports.lean ====
section
/-! SUPPORT. The output ports of spec/30_encoding.md R106 agree with what the operations put out. -/

namespace Sys2Proof.Machine

/-- A caller that carries on only adds to the outputs. -/
theorem State.resume_out (s : State) (a : Agent) (r : Return) : ∃ os, (s.resume a r).out = s.out ++ os := by
  cases a with
  | driver => exact ⟨[], (List.append_nil _).symm⟩
  | worker c =>
    cases h : s.chans[c]? with
    | none => exact ⟨[], by rw [State.resume_worker_none h, List.append_nil]⟩
    | some ch => exact ⟨_, by rw [State.resume_worker h]⟩
  | bcast k =>
    cases h : s.findBcast k with
    | none => exact ⟨[], by rw [State.resume_bcast_none h, List.append_nil]⟩
    | some b =>
      rw [State.resume_bcast h]
      unfold State.resumeBcast
      split
      case h_9 =>
        obtain ⟨chans, e⟩ := s.bcastReturn_eq b (.encFail ‹EncCause›)
        exact ⟨_, by rw [e]⟩
      all_goals exact ⟨[], (List.append_nil _).symm⟩

/-- An operation that ends with a result only adds to the outputs. -/
theorem State.ret_out (s : State) (a : Agent) (r : Result) : ∃ os, (s.ret a r).out = s.out ++ os := by
  obtain ⟨os, h⟩ := (s.output (.result a r)).resume_out a (.result r)
  exact ⟨.result a r :: os, h.trans (List.append_assoc ..)⟩

/-- A pending write shows a byte at `tx_data` only while `tx_valid` is 1. -/
theorem Chan.txValid_of_txData {k : Config} {ch : Chan} {b : Byte} (h : ch.txData k = some b) : ch.txValid = true := by
  unfold Chan.txData at h
  unfold Chan.txValid
  split at h
  · contradiction
  · rename_i hj; rw [hj]; rfl
  · rename_i hj; rw [hj]; rfl

/-- The byte at `tx_data[c]` is the one a pending `TX.SEND` emits at `TxReady(c)` (R106, R161). -/
theorem sendReady_emits {s : State} {c : ChanId} {ch : Chan} {a : Agent} {b : Byte} (hc : s.chans[c]? = some ch)
    (hj : ch.txJob = .send a) (hi : ch.txPhase = .payload → ch.txIdx < bufSize)
    (hb : ch.txData s.config = some b) :
    ∃ t os, sendReady c s = .next t ∧ t.out = s.out ++ .emit c b :: os := by
  simp only [Chan.txData, hj, Option.map_eq_some_iff] at hb
  obtain ⟨⟨b, ch'⟩, hs, rfl⟩ := hb
  have hn : ¬(ch.txPhase = .payload ∧ bufSize ≤ ch.txIdx) := fun ⟨hp, hl⟩ => absurd (hi hp) (by omega)
  simp only [sendReady, State.onChan, hc, hj, hn, if_false, hs]
  split
  · obtain ⟨os, h⟩ := ((s.setChan c ch').emit c b).ret_out a .txOk
    exact ⟨_, os, rfl, h.trans (List.append_assoc ..)⟩
  · exact ⟨_, [], rfl, rfl⟩

/-- The byte at `tx_data[c]` is the one a pending `TX.RAW` emits at `TxReady(c)` (R106, R166). -/
theorem rawReady_emits {s : State} {c : ChanId} {ch : Chan} {a : Agent} {rest : List Byte} {b : Byte}
    (hc : s.chans[c]? = some ch) (hj : ch.txJob = .raw a rest) (hb : ch.txData s.config = some b) :
    ∃ t os, rawReady c s = .next t ∧ t.out = s.out ++ .emit c b :: os := by
  simp only [Chan.txData, hj] at hb
  obtain ⟨rest', rfl⟩ : ∃ rest', rest = b :: rest' := by
    cases rest with
    | nil => contradiction
    | cons x xs => exact ⟨xs, by simpa using hb⟩
  simp only [rawReady, State.onChan, hc, hj]
  split
  · obtain ⟨os, h⟩ := State.ret_out _ a .txOk
    exact ⟨_, os, rfl, h.trans (List.append_assoc ..)⟩
  · exact ⟨_, [], rfl, rfl⟩

/-- In a cycle of `rst` every output port is at 0 (R310). -/
theorem outPorts_rst {s : State} {inputs : CfgRegs} {rest : List Stim} (h : s.script = .rst inputs :: rest)
    (t : State) :
    s.outPorts t = s.rstPorts := by
  simp [State.outPorts, State.rstNext, h]

/-- Without `rst` the output ports are those of a running cycle (R106). -/
theorem outPorts_run {s : State} (h : s.rstNext = false) (t : State) : s.outPorts t = s.runPorts t := by
  simp [State.outPorts, h]

/-- A channel that `rst` has cleared shows nothing at its levels (R310). -/
theorem afterRst_levels (ch : Chan) :
    ch.afterRst.running = false ∧ ch.afterRst.rxReady = false ∧ ch.afterRst.txValid = false := ⟨rfl, rfl, rfl⟩

/-- A message that pass 2 accepts shows a dispatch at its channel's port, with its tag and the length of the body in the
receive buffer (R106, R228). -/
theorem dispatchPort_of_workerBody {k : Config} {v : Variant} {w : BitVec 3} {c : ChanId} {ch : Chan} {x : BodyVal}
    (h : workerBody k v w ch = some x) :
    ∃ body, bodyBytes k v ch.rxPayload = some body ∧
      (Output.dispatch c v x).dispatchPort k c ch = some ⟨tagOf k v, BitVec.ofNat 8 body.length⟩ := by
  unfold workerBody decodeBody at h
  split at h
  · obtain ⟨body, hb, -⟩ := Option.bind_eq_some_iff.mp h
    exact ⟨body, hb, by simp [Output.dispatchPort, hb]⟩
  · contradiction

end Sys2Proof.Machine
end

