-- ==== Sys2Proof/Machine/Script.lean ====
section
/-! DEFINITION. The stimulus scripts of spec/30_encoding.md R112 and the pseudo-operations of R113, as lists of stimuli.
The notation leaves the agents' own steps unsaid; `turns` says them. -/

namespace Sys2Proof.Machine

/-- A line of a stimulus script (R112). -/
inductive Line where
  | rx (c : ChanId) (bs : List Byte)
  | tmo (c : ChanId)
  | rst (c : ChanId)
  | start (c : ChanId)
  | stop (c : ChanId)
  | due (c : ChanId)
  | reply (c : ChanId) (t : Nat) (body : List Byte)
  | bcast (c : ChanId) (t : Nat) (body : List Byte)
  | handlerDone (c : ChanId)
  | txfail (c : ChanId) (after : Nat)
  /-- the worker of `c` takes `n` steps -/
  | turns (c : ChanId) (n : Nat)
  /-- the channel of `c` accepts `n` bytes -/
  | ready (c : ChanId) (n : Nat)
  deriving DecidableEq, Repr

/-- The stimuli of a line (R112). `rst c` reaches the receiver and the sender of `c` (R104). `bcast` leaves unsaid whose
handler issues it; the model's line names its channel (R106's `cmd_chan`, D35). -/
def Line.stims : Line → List Stim
  | .rx c bs => bs.map (.rxByte c)
  | .tmo c => [.rxTimeout c]
  | .rst c => [.chResetRx c, .chResetTx c]
  | .start c => [.start c]
  | .stop c => [.terminate c]
  | .due c => [.statusDue c]
  | .reply c t body => [.reply c t body]
  | .bcast c t body => [.broadcast (.handler c) t body]
  | .handlerDone c => [.handlerDone c]
  | .txfail c after => List.replicate after (.txReady c) ++ [.txTimeout c]
  | .turns c n => List.replicate n (.worker c)
  | .ready c n => List.replicate n (.txReady c)

/-- A script's stimuli, in the order presented. -/
def scriptOf (ls : List Line) : List Stim := ls.flatMap Line.stims

/-- `MSG(seq, v, B)` (R113). -/
def msgBytes (k : Config) (seq : Byte) (v : Variant) (body : List Byte) : List Byte :=
  frameBytes k seq k.msgidEnvelope (envelope (tagOf k v) body)

/-- `send c t B` (R113, R229) by the worker of `c`, which has taken on a `Reply`, with `n` bytes accepted by the channel in
between: the words of its four operations. -/
def sendWords (k : Config) (m : MediumId) (c : ChanId) (t : Nat) (body : List Byte) (n : Nat) : List Stim :=
  [.op (encode k.start (.lockAcq (.worker c) m)), .op (encode k.start (.envEncode (.worker c) c t body)),
   .op (encode k.start (.txSend c (.call (.worker c) k.msgidEnvelope)))] ++
  List.replicate n (.txReady c) ++ [.op (encode k.start (.lockRel (.worker c) m))]

end Sys2Proof.Machine
end

