-- ==== Sys2Proof/Tests/Slice0.lean ====
section
/-! SUPPORT. Tests. Expected values come from the rules' examples and from spec/95_test_vectors.md, named at each test;
the words of the model's own coding from its tables (log entry 2). -/

namespace Sys2Proof.Tests

open Sys2Proof.Machine

/-- The parameters of the worked examples (spec/95_test_vectors.md): the defaults, with the body codec the identity. -/
def cfg0 : Config where
  start          := 0xA5
  maxInstances   := 2
  crc            := .poly 0x07 true
  crcInit        := 0x00
  crcXorout      := 0x00
  idleKeepsState := true
  msgidEnvelope  := 0x00
  tags           := [1, 2, 3, 4, 5, 6, 7, 8, 9, 10]
  codec          := .identity
  bcastReframe   := false
  nChan          := 3
  nMedia         := 3
  medium         := [0, 1, 2]
  finalDiag      := [(2, [0x62, 0x79, 0x65]), (2, []), (2, [])]
  pageSize       := 64
  engineIdW      := 32

/-- Configuration inputs. -/
def inputs0 : CfgRegs where
  engineId     := 7
  statusPeriod := 100
  dbgAdcRaw    := false
  dbgMemdump   := false
  tIdle        := 10
  tBulk        := 50
  tSend        := 20

/-- The machine after reset at these parameters. -/
def s0 : State := State.resetWith cfg0 inputs0

/-- The machine with channel 0 at the registers `f` gives it. -/
def at0 (f : Chan → Chan) : State := s0.updChan 0 f

/-- The outputs of an answer. -/
def outs (a : Answer) : Option (List Output) :=
  match a with
  | .next t => some t.out
  | _ => none

/-- A view of channel 0 after an answer. -/
def see {α : Type} (a : Answer) (f : Chan → α) : Option α :=
  match a with
  | .next t => (t.chans[0]?).map f
  | _ => none

/-- A view of the state after an answer. -/
def look {α : Type} (a : Answer) (f : State → α) : Option α :=
  match a with
  | .next t => some (f t)
  | _ => none

/-! ## Well-formedness: an ill-formed term for each check -/

theorem test_illformed_channel :
    Instr.wellFormed 0xA5 (.rxStart (2 ^ 64)) = false ∧ Instr.wellFormed 0xA5 (.rxSeq (2 ^ 64) 0) = false ∧
    Instr.wellFormed 0xA5 (.rxReceive (2 ^ 64)) = false ∧ Instr.wellFormed 0xA5 (.sesStop (2 ^ 64)) = false ∧
    Instr.wellFormed 0xA5 (.envStatus (2 ^ 64) 2) = false ∧ Instr.wellFormed 0xA5 (.frame (2 ^ 64) 0 0 [] 0) = false := by
  decide

theorem test_illformed_discard :
    Instr.wellFormed 0xA5 (.rxDiscard 0 0xA5) = false ∧ Instr.wellFormed 0x7E (.rxDiscard 0 0x7E) = false ∧
    Instr.wellFormed 0x7E (.rxDiscard 0 0xA5) = true := by
  decide

theorem test_illformed_agent :
    Instr.wellFormed 0xA5 (.lockAcq (.worker (2 ^ 64)) 0) = false ∧ Instr.wellFormed 0xA5 (.lockRel (.bcast (2 ^ 64)) 0) = false ∧
    Instr.wellFormed 0xA5 (.txSend 0 (.call (.worker (2 ^ 64)) 0)) = false := by
  decide

theorem test_illformed_numbers :
    Instr.wellFormed 0xA5 (.lockAcq .driver (2 ^ 64)) = false ∧ Instr.wellFormed 0xA5 (.regClaim 0 (2 ^ 64)) = false ∧
    Instr.wellFormed 0xA5 (.envEncode .driver 0 (2 ^ 64) []) = false ∧
    Instr.wellFormed 0xA5 (.sesSend 0 (2 ^ 64) []) = false ∧
    Instr.wellFormed 0xA5 (.bcastSend (.call (.handler (2 ^ 64)) 0 [])) = false ∧
    Instr.wellFormed 0xA5 (.bcastSend (.visit (2 ^ 64) 0)) = false ∧
    Instr.wellFormed 0xA5 (.bcastSend (.copy (2 ^ 64))) = false ∧
    Instr.wellFormed 0xA5 (.bcastSend (.finish (2 ^ 64))) = false := by
  decide

theorem test_illformed_raw_short : Instr.wellFormed 0xA5 (.txRaw 0 (.call .driver [1, 2, 3, 4])) = false := by decide

theorem test_illformed_raw_long : frameOk (List.replicate 261 0) = false := by
  unfold frameOk
  rw [List.length_replicate]
  rfl

theorem test_illformed_payload : payloadOk (List.replicate 256 0) = false := by
  unfold payloadOk
  rw [List.length_replicate]
  rfl

theorem test_illformed_word_refused :
    (match decode 0xA5 [0x8E, 0x00, 0x00, 0x00, 0x01, 0xA5] with | .error .illFormed => true | _ => false) = true := by
  decide

/-! ## Decoding: a word written out for every constructor -/

/-- R98: key byte, then the model's channel (log entry 2). -/
theorem test_decode_keys :
    (decodeWord 0xA5 [0x0A, 0x00]).toOption = some (.envStatus 0 2) ∧
    (decodeWord 0xA5 [0x12, 0x01]).toOption = some (.envStatusText 1 2) ∧
    (decodeWord 0xA5 [0x1A, 0x02]).toOption = some (.envTimeReference 2 2) ∧
    (decodeWord 0xA5 [0x22, 0x00]).toOption = some (.envCommand 0 2) ∧
    (decodeWord 0xA5 [0x2A, 0x00]).toOption = some (.envParamRequest 0 2) ∧
    (decodeWord 0xA5 [0x32, 0x00]).toOption = some (.envParamSet 0 2) ∧
    (decodeWord 0xA5 [0x3A, 0x00]).toOption = some (.envParamValue 0 2) ∧
    (decodeWord 0xA5 [0x42, 0x00]).toOption = some (.envLogRequest 0 2) ∧
    (decodeWord 0xA5 [0x4A, 0x00]).toOption = some (.envMemoryDumpRequest 0 2) ∧
    (decodeWord 0xA5 [0x52, 0x00]).toOption = some (.envMemoryDumpPage 0 2) ∧
    (decodeWord 0xA5 [0x08, 0x00]).toOption = some (.envStatus 0 0) ∧
    (decodeWord 0xA5 [0x57, 0x00]).toOption = some (.envMemoryDumpPage 0 7) := by
  decide

theorem test_decode_crc :
    (decodeWord 0xA5 [0x80, 0x07, 0x01]).toOption = some (.crc8Update 0x07 0x01) ∧
    (decodeWord 0xA5 [0x81, 0x00, 0x02, 0x31, 0x32]).toOption = some (.crc8Block 0x00 [0x31, 0x32]) := by
  decide

theorem test_decode_rx :
    (decodeWord 0xA5 [0xA5, 0x00]).toOption = some (.rxStart 0) ∧
    (decodeWord 0xA5 [0x82, 0x01, 0x13]).toOption = some (.rxDiscard 1 0x13) ∧
    (decodeWord 0xA5 [0x83, 0x01, 0xA5]).toOption = some (.rxSeq 1 0xA5) ∧
    (decodeWord 0xA5 [0x84, 0x01, 0x10]).toOption = some (.rxMsgid 1 0x10) ∧
    (decodeWord 0xA5 [0x85, 0x01, 0xFF]).toOption = some (.rxLen 1 0xFF) ∧
    (decodeWord 0xA5 [0x86, 0x01, 0x0A]).toOption = some (.rxPayload 1 0x0A) ∧
    (decodeWord 0xA5 [0x87, 0x01, 0x54]).toOption = some (.rxCrc 1 0x54) ∧
    (decodeWord 0xA5 [0x88, 0x02]).toOption = some (.rxIdleTmo 2) ∧
    (decodeWord 0xA5 [0x89, 0x02]).toOption = some (.rxBulkTmo 2) ∧
    (decodeWord 0xA5 [0x8A, 0x02]).toOption = some (.rxIdleRst 2) ∧
    (decodeWord 0xA5 [0x8B, 0x02]).toOption = some (.rxBulkRst 2) ∧
    (decodeWord 0xA5 [0x8C, 0xAC, 0x02]).toOption = some (.rxReceive 300) := by
  decide

theorem test_decode_tx :
    (decodeWord 0xA5 [0x8D, 0x00, 0x00, 0x01, 0x02, 0x10]).toOption = some (.txSend 0 (.call (.worker 2) 0x10)) ∧
    (decodeWord 0xA5 [0x8D, 0x00, 0x01]).toOption = some (.txSend 0 .ready) ∧
    (decodeWord 0xA5 [0x8D, 0x00, 0x02]).toOption = some (.txSend 0 .timeout) ∧
    (decodeWord 0xA5 [0x8D, 0x00, 0x03]).toOption = some (.txSend 0 .chReset) ∧
    (decodeWord 0xA5 [0x8E, 0x01, 0x00, 0x02, 0x03, 0x05, 0xA5, 0x01, 0x00, 0x00, 0x6B]).toOption =
      some (.txRaw 1 (.call (.bcast 3) [0xA5, 0x01, 0x00, 0x00, 0x6B])) ∧
    (decodeWord 0xA5 [0x8E, 0x01, 0x01]).toOption = some (.txRaw 1 .ready) ∧
    (decodeWord 0xA5 [0x8F, 0x00, 0x02]).toOption = some (.lockAcq .driver 2) ∧
    (decodeWord 0xA5 [0x90, 0x01, 0x02, 0x00]).toOption = some (.lockRel (.worker 2) 0) := by
  decide

theorem test_decode_env :
    (decodeWord 0xA5 [0x91, 0x00, 0x01, 0x03, 0x02, 0xAA, 0xBB]).toOption = some (.envEncode .driver 1 3 [0xAA, 0xBB]) ∧
    (decodeWord 0xA5 [0x92, 0x02, 0x0A, 0x00]).toOption = some (.envDiscriminate [0x0A, 0x00]) ∧
    (decodeWord 0xA5 [0x93, 0x02, 0x02, 0x1A, 0x00]).toOption = some (.envBody .timeReference [0x1A, 0x00]) := by
  decide

theorem test_decode_reg :
    (decodeWord 0xA5 [0x94, 0x02, 0x01]).toOption = some (.regClaim 2 1) ∧
    (decodeWord 0xA5 [0x95, 0x02]).toOption = some (.regClear 2) ∧
    (decodeWord 0xA5 [0x96, 0x00, 0x01, 0x02, 0x07, 0x01, 0x55]).toOption =
      some (.bcastSend (.call (.handler 2) 7 [0x55])) ∧
    (decodeWord 0xA5 [0x96, 0x01, 0x04, 0x01]).toOption = some (.bcastSend (.visit 4 1)) ∧
    (decodeWord 0xA5 [0x96, 0x02, 0x04]).toOption = some (.bcastSend (.copy 4)) ∧
    (decodeWord 0xA5 [0x96, 0x03, 0x04]).toOption = some (.bcastSend (.finish 4)) := by
  decide

theorem test_decode_ses :
    (decodeWord 0xA5 [0x97, 0x00, 0x00]).toOption = some (.sesStart 0 .event) ∧
    (decodeWord 0xA5 [0x97, 0x00, 0x03]).toOption = some (.sesStart 0 .enter) ∧
    (decodeWord 0xA5 [0x98, 0x00]).toOption = some (.sesCheckTerm 0) ∧
    (decodeWord 0xA5 [0x99, 0x00, 0x01]).toOption = some (.sesStatus 0 .due) ∧
    (decodeWord 0xA5 [0x9A, 0x00]).toOption = some (.sesReceive 0) ∧
    (decodeWord 0xA5 [0x9B, 0x00, 0x01]).toOption = some (.sesDispatch 0 .handlerDone) ∧
    (decodeWord 0xA5 [0x9C, 0x00, 0x04, 0x02, 0x08, 0x01]).toOption = some (.sesSend 0 4 [0x08, 0x01]) ∧
    (decodeWord 0xA5 [0x9D, 0x00]).toOption = some (.sesStop 0) := by
  decide

/-- R90: `A5 seq msgid len payload crc`. -/
theorem test_decode_frame :
    (decodeWord 0xA5 [0x9F, 0x01, 0xA5, 0x05, 0x10, 0x02, 0xA5, 0xA5, 0x77]).toOption =
      some (.frame 1 0x05 0x10 [0xA5, 0xA5] 0x77) := by
  decide

theorem test_decode_refusals :
    (match decodeWord 0xA5 [] with | .error .emptyWord => true | _ => false) = true ∧
    (match decodeWord 0xA5 [0x00] with | .error (.unknownOpcode _) => true | _ => false) = true ∧
    (match decodeWord 0xA5 [0x83, 0x00] with | .error .truncated => true | _ => false) = true ∧
    (match decodeWord 0xA5 [0x8C, 0x80] with | .error .badVarint => true | _ => false) = true ∧
    (match decodeWord 0xA5 [0x97, 0x00, 0x04] with | .error (.badForm _) => true | _ => false) = true ∧
    (match decodeWord 0xA5 [0x9F, 0x00, 0x00] with | .error (.noStartMarker _) => true | _ => false) = true ∧
    (match decodeWord 0xA5 [0x82, 0x00, 0xA5] with | .error .illFormed => true | _ => false) = true ∧
    (match decodeWord 0xA5 [0x98, 0x00, 0x00] with | .error .trailingBytes => true | _ => false) = true := by
  decide

/-- R97's examples. -/
theorem test_varint :
    varint 0 = [0x00] ∧ varint 127 = [0x7F] ∧ varint 128 = [0x80, 0x01] ∧ varint 255 = [0xFF, 0x01] ∧
    varint 300 = [0xAC, 0x02] ∧ readVarint [0x80, 0x00] = some (0, 2) ∧ readVarint [0x80] = none := by
  decide

/-- Placed table words run as the first operation after reset. -/
theorem test_placed_byte :
    see (step (s0.withFetchWord 8 0xA5)) (·.rxState) = some .seq := by
  decide

theorem test_placed_key :
    outs (step (s0.withFetchWord 8 0x22)) = some [.result (.worker 0) (.bodyOk .command []), .dispatch 0 .command []] := by
  decide

set_option maxRecDepth 8192 in
theorem test_placed_frame :
    see (step (s0.withFetchWord 40 0x6B000001A5)) (·.rxs) = some [0xA5, 0x01, 0x00, 0x00, 0x6B] := by
  decide

/-! ## CRC: spec/95_test_vectors.md V-CRC, V-FR -/

set_option maxRecDepth 8192 in
theorem test_crc_step :
    crcStep (.poly 0x07 true) 0x00 0x01 = 0x07 ∧ crcStep (.poly 0x07 true) 0x00 0x80 = 0x89 ∧
    crcStep (.poly 0x07 true) 0x00 0xFF = 0xF3 ∧ crcStep (.poly 0x07 true) 0xFF 0x00 = 0xF3 := by
  decide

theorem test_crc_update : outs (exec (.crc8Update 0x07 0x01) s0) = some [.result .driver (.crc 0x12)] := by decide

set_option maxRecDepth 8192 in
theorem test_crc_block :
    outs (exec (.crc8Block 0x00 [0x31, 0x32, 0x33, 0x34, 0x35, 0x36, 0x37, 0x38, 0x39]) s0) =
      some [.result .driver (.crc 0xF4)] ∧
    outs (exec (.crc8Block 0x00 [0x01, 0x00, 0x00]) s0) = some [.result .driver (.crc 0x6B)] := by
  decide

set_option maxRecDepth 8192 in
theorem test_frames :
    frameBytes cfg0 0x01 0x00 [] = [0xA5, 0x01, 0x00, 0x00, 0x6B] ∧
    frameBytes cfg0 0x00 0x00 [0x0A, 0x00] = [0xA5, 0x00, 0x00, 0x02, 0x0A, 0x00, 0x54] ∧
    frameBytes cfg0 0x05 0x10 [0xA5, 0xA5] = [0xA5, 0x05, 0x10, 0x02, 0xA5, 0xA5, 0x77] ∧
    msgBytes cfg0 0x07 .command [0x08, 0x01, 0x10, 0x05] =
      [0xA5, 0x07, 0x00, 0x06, 0x22, 0x04, 0x08, 0x01, 0x10, 0x05, 0xD5] := by
  decide

/-! ## Receiver: the examples of R131 to R142 -/

theorem test_rx_start :
    see (exec (.rxStart 0) (at0 fun ch => { ch with rxCrc := 0x55 })) (fun ch => (ch.rxState, ch.rxCrc)) =
      some (.seq, 0x00) := by
  decide

theorem test_rx_discard : exec (.rxDiscard 0 0x00) s0 = .next s0 := by rfl

theorem test_rx_seq :
    see (exec (.rxSeq 0 0x01) (at0 fun ch => { ch with rxState := .seq }))
      (fun ch => (ch.rxSeq, ch.rxCrc, ch.rxState)) = some (0x01, 0x07, .msgid) := by
  decide

theorem test_rx_msgid :
    see (exec (.rxMsgid 0 0x00) (at0 fun ch => { ch with rxState := .msgid, rxCrc := 0x07, rxMsgid := 9 }))
      (fun ch => (ch.rxMsgid, ch.rxCrc, ch.rxState)) = some (0x00, 0x15, .len) := by
  decide

theorem test_rx_len_zero :
    see (exec (.rxLen 0 0x00) (at0 fun ch => { ch with rxState := .len, rxCrc := 0x15, rxCnt := 3 }))
      (fun ch => (ch.rxLen, ch.rxCrc, ch.rxCnt, ch.rxState)) = some (0x00, 0x6B, 0, .crc) := by
  decide

theorem test_rx_len_two :
    see (exec (.rxLen 0 0x02) (at0 fun ch => { ch with rxState := .len }))
      (fun ch => (ch.rxLen, ch.rxCrc, ch.rxState)) = some (0x02, 0x0E, .payload) := by
  decide

theorem test_rx_payload_first :
    see (exec (.rxPayload 0 0x0A) (at0 fun ch => { ch with rxState := .payload, rxLen := 2, rxCrc := 0x0E }))
      (fun ch => (Memory.read ch.rxBuf 0, ch.rxCrc, ch.rxCnt, ch.rxState)) = some (0x0A, 0x1C, 1, .payload) := by
  decide

theorem test_rx_payload_last :
    see (exec (.rxPayload 0 0x00)
        (at0 fun ch => { ch with rxState := .payload, rxLen := 2, rxCnt := 1, rxCrc := 0x1C, rxBuf := [(0, 0x0A)] }))
      (fun ch => (Memory.readN ch.rxBuf 0 2, ch.rxCrc, ch.rxCnt, ch.rxState)) =
      some ([0x0A, 0x00], 0x54, 2, .crc) := by
  decide

/-- R136's example. -/
def crcChan : Chan := { Chan.reset with rxState := .crc, rxSeq := 0x01, rxCrc := 0x6B, ctl := .recvRead }

/-- A machine with it as channel 0. -/
def atCrc : State := at0 fun _ => crcChan

theorem test_rx_crc_good :
    outs (exec (.rxCrc 0 0x6B) atCrc) = some [.signal .normal, .result (.worker 0) (.rxOk 0x01 0x00 0x00 [])] ∧
    see (exec (.rxCrc 0 0x6B) atCrc) (·.rxState) = some .waitStart := by
  decide

theorem test_rx_crc_bad :
    outs (exec (.rxCrc 0 0x6A) atCrc) = some [.signal .fail, .result (.worker 0) (.rxFail .crc)] ∧
    see (exec (.rxCrc 0 0x6A) atCrc) (fun ch => (ch.rxState, ch.rxCrc)) = some (.waitStart, 0x6B) := by
  decide

theorem test_rx_idle_tmo :
    outs (exec (.rxIdleTmo 0) (at0 fun ch => { ch with rxState := .msgid, rxCrc := 0x07 })) =
      some [.result (.worker 0) .rxNoData] ∧
    see (exec (.rxIdleTmo 0) (at0 fun ch => { ch with rxState := .msgid, rxCrc := 0x07 }))
      (fun ch => (ch.rxState, ch.rxCrc)) = some (.msgid, 0x07) := by
  decide

/-- V-RX-6, second part: `IDLE_KEEPS_STATE = false`. -/
theorem test_rx_idle_rst_resync :
    see (exec (.rxIdleRst 0)
        { (at0 fun ch => { ch with rxState := .msgid }) with config := { cfg0 with idleKeepsState := false } })
      (·.rxState) = some .waitStart := by
  decide

theorem test_rx_bulk_tmo :
    outs (exec (.rxBulkTmo 0) (at0 fun ch => { ch with rxState := .payload, rxLen := 2, rxCnt := 1 })) =
      some [.signal .fail, .result (.worker 0) (.rxFail .midframe)] := by
  decide

theorem test_rx_bulk_rst :
    see (exec (.rxBulkRst 0) (at0 fun ch => { ch with rxState := .payload, rxLen := 2, rxCnt := 1 }))
      (·.rxState) = some .waitStart := by
  decide

/-- V-RX-17. -/
theorem test_rx_receive_terminated :
    outs (exec (.rxReceive 0) (at0 fun ch => { ch with rxState := .msgid, sesTermReq := true, ctl := .recvTop })) =
      some [.result (.worker 0) .rxNoData] ∧
    see (exec (.rxReceive 0) (at0 fun ch => { ch with rxState := .payload, sesTermReq := true, ctl := .recvTop }))
      (·.ctl) = some .recvRead := by
  decide

/-- A request has come while a read is pending. -/
def askedInRead : State := at0 fun ch => { ch with sesPhase := .receive, sesTermReq := true, ctl := .recvRead }

/-- R142: the request is not seen before the read's event; a timeout ends the receive with `RX_NO_DATA` (V-SES-11), and
after a byte the flag is tested again (V-RX-17). -/
theorem test_rx_receive_not_preemptive :
    step { askedInRead with script := [.worker 0] } = .next askedInRead ∧
    outs (step { askedInRead with script := [.rxTimeout 0] }) = some [.result (.worker 0) .rxNoData] ∧
    see (step { askedInRead with script := [.rxByte 0 0xA5] }) (fun ch => (ch.rxState, ch.ctl)) =
      some (.seq, .recvTop) :=
  ⟨rfl, by decide, by decide⟩

/-- R287, R282: a byte outside `RECEIVE` stays with the device; in a collision a reset beats a byte, which is gone. -/
theorem test_rx_inputs :
    see (step { s0 with script := [.rxByte 0 0x55] }) (·.rxs) = some [0x55] ∧
    see (step { (at0 fun ch => { ch with sesPhase := .receive, ctl := .recvRead }) with
        script := [.rxCycle 0 true (some 0xA5) true] }) (fun ch => (ch.rxState, ch.rxs, ch.ctl)) =
      some (.waitStart, [], .recvDone .rxNoData) := by
  decide

/-! ## Sender: R161 to R166, V-TX -/

/-- The driver holds the lock of channel 0's medium. -/
def held0 (f : Chan → Chan) : State := (at0 f).setLock 0 (.held .driver)

/-- R106, R161, R166: `tx_data` is the start marker at a send's first byte, its payload byte later on, the next raw byte, and
without a write nothing; R270: `TX_FAIL` of a reply is 2 at `cmd_result`. -/
theorem test_ports_levels :
    { Chan.reset with txJob := .send .driver, txPhase := .start }.txData cfg0 = some 0xA5 ∧
    { Chan.reset with
      txJob := .send .driver, txPhase := .payload, txLen := 2, txIdx := 1, txBuf := [(1, 0x2B)] }.txData cfg0 =
        some 0x2B ∧
    { Chan.reset with txJob := .raw .driver [0x54, 0x55], txPhase := .start }.txData cfg0 = some 0x54 ∧
    Chan.reset.txData cfg0 = none ∧ Chan.reset.txValid = false ∧ Chan.reset.rxReady = false ∧
    Chan.reset.running = false ∧
    (Output.replyDone 0 .txFail).cmdResult = some 2 ∧ (Output.signal .fail).faultLevel = some 1 := by
  decide

/-- V-TX-2. -/
theorem test_tx_send_call_wraps :
    see (exec (.txSend 0 (.call .driver 0x00)) (held0 fun ch => { ch with txSeq := 0xFF }))
      (fun ch => (ch.txSeq, ch.txHdrSeq, ch.txPhase, ch.txJob)) = some (0x00, 0xFF, .start, .send .driver) := by
  decide

/-- V-TX-1, its last byte. -/
theorem test_tx_send_last_byte :
    outs (exec (.txSend 0 .ready)
      (held0 fun ch => { ch with txJob := .send .driver, txPhase := .crc, txCrc := 0x6B })) =
      some [.emit 0 0x6B, .result .driver .txOk] := by
  decide

/-- V-TX-4. -/
theorem test_tx_send_timeout :
    outs (exec (.txSend 0 .timeout)
      (held0 fun ch => { ch with txJob := .send .driver, txPhase := .msgid, txSeq := 2 })) =
      some [.signal .fail, .result .driver .txFail] ∧
    see (exec (.txSend 0 .timeout)
      (held0 fun ch => { ch with txJob := .send .driver, txPhase := .msgid, txSeq := 2 }))
      (fun ch => (ch.txPhase, ch.txSeq)) = some (.idle, 2) := by
  decide

/-- V-TX-5. -/
theorem test_tx_raw :
    see (exec (.txRaw 0 (.call .driver [0xA5, 0x05, 0x00, 0x02, 0x3A, 0x00, 0x40]))
      (held0 fun ch => { ch with txSeq := 9 })) (fun ch => (ch.txSeq, ch.txPhase)) = some (9, .start) ∧
    outs (exec (.txRaw 0 .ready) (held0 fun ch => { ch with txJob := .raw .driver [0x00, 0x40], txPhase := .payload })) =
      some [.emit 0 0x00] := by
  decide

/-- R75: a held lock makes another agent wait; only the holder frees it. -/
theorem test_lock_waits : exec (.lockAcq (.worker 1) 0) (held0 id) = .next (held0 id) := by rfl

theorem test_lock :
    look (exec (.lockAcq .driver 0) s0) (fun t => t.locks.head?) = some (some (.held .driver)) ∧
    look (exec (.lockRel .driver 0) (held0 id)) (fun t => t.locks.head?) = some (some .free) := by
  decide

theorem test_lock_not_holder :
    exec (.lockRel (.worker 1) 0) (held0 id) = .refused (.notLockHolder (.worker 1) 0) := by rfl

/-- R286: a lock is taken by a worker in its own step, and by no caller outside the block. -/
theorem test_lock_words :
    look (step { (at0 fun ch => { ch with ctl := .startAcq }) with script := [.op [0x8F, 0x01, 0x00, 0x00]] })
      (fun t => t.locks.head?) = some (some (.held (.worker 0))) ∧
    look (step { s0 with script := [.op [0x8F, 0x00, 0x00]] }) (fun t => (t.locks.head?, t.script)) =
      some (some .free, []) := by
  decide

/-! ## Envelope codec: V-ENV -/

/-- V-ENV-2. -/
theorem test_env_encode :
    see (exec (.envEncode .driver 0 3 [0x01, 0x02, 0x03]) (held0 id)) (fun ch => (ch.txPayload, ch.txLen)) =
      some ([0x1A, 0x03, 0x01, 0x02, 0x03], 5) := by
  decide

/-- V-ENV-7. -/
theorem test_env_encode_unknown :
    outs (exec (.envEncode .driver 0 11 []) (held0 id)) =
      some [.signal .fail, .result .driver (.encFail .unknownTag)] ∧
    outs (exec (.envEncode .driver 0 0 []) (held0 id)) =
      some [.signal .fail, .result .driver (.encFail .unknownTag)] := by
  decide

/-- V-ENV-3 to V-ENV-6: lengths. -/
theorem test_env_lengths (b : List Byte) :
    (b.length = 127 → envelope 7 b = 0x3A :: 0x7F :: b) ∧
    (b.length = 128 → envelope 7 b = 0x3A :: 0x80 :: 0x01 :: b) ∧
    (b.length = 252 → (envelope 10 b).length = 255) ∧ (b.length = 253 → (envelope 10 b).length = 256) := by
  refine ⟨fun h => ?_, fun h => ?_, fun h => ?_, fun h => ?_⟩ <;> simp [envelope, h, keyOf, varint, varintBytes]

/-- V-ENV-8 to V-ENV-23. -/
theorem test_env_discriminate :
    discriminate cfg0 [] = none ∧
    discriminate cfg0 [0x78, 0x05, 0x1A, 0x00] = some (.timeReference, 3, 2) ∧
    discriminate cfg0 [0x78, 0x05] = none ∧
    discriminate cfg0 [0x7B, 0x00] = none ∧
    discriminate cfg0 [0x7D, 0x01, 0x02, 0x03, 0x04, 0x2A, 0x00] = some (.paramRequest, 6, 2) ∧
    discriminate cfg0 [0x79, 1, 2, 3, 4, 5, 6, 7, 8, 0x32, 0x00] = some (.paramSet, 10, 2) ∧
    discriminate cfg0 [0x7A, 0x02, 0xAA, 0xBB, 0x42, 0x00] = some (.logRequest, 5, 2) ∧
    discriminate cfg0 [0x7D, 0x01, 0x02] = none ∧
    discriminate cfg0 [0x7A, 0x05, 0xAA] = none ∧
    discriminate cfg0 [0x00] = none ∧
    discriminate cfg0 [0x82, 0x01, 0x00] = none ∧
    discriminate cfg0 [0x2A, 0x00, 0x22, 0x00] = some (.paramRequest, 1, 2) ∧
    discriminate cfg0 [0x8A, 0x00, 0x00] = some (.status, 2, 2) ∧
    discriminate cfg0 [0x80] = none ∧
    outs (exec (.envDiscriminate [0x08, 0x01]) s0) = some [.result .driver (.found .status 1 0)] := by
  decide

/-- V-ENV-23 to V-ENV-26. -/
theorem test_env_body :
    outs (exec (.envBody .timeReference [0x1A, 0x03, 0x01, 0x02, 0x03]) s0) =
      some [.result .driver (.bodyOk .timeReference [0x01, 0x02, 0x03])] ∧
    outs (exec (.envBody .paramRequest [0x2A, 0x00, 0xFF, 0xFF]) s0) =
      some [.result .driver (.bodyOk .paramRequest [])] ∧
    outs (exec (.envBody .command [0x22, 0x05, 0x01]) s0) = some [.signal .fail, .result .driver .bodyFail] ∧
    outs (exec (.envBody .status [0x08, 0x01]) s0) = some [.signal .fail, .result .driver .bodyFail] := by
  decide

/-- A channel whose worker has received a payload. -/
def receivedChan (p : List Byte) : Chan :=
  { Chan.reset with
    rxBuf := Memory.writeN [] 0 p
    rxLen := BitVec.ofNat 8 p.length
    sesPhase := .dispatch
    sesSlot := some 0 }

/-- Such a worker on channel 0. -/
def received (p : List Byte) : State := at0 fun _ => receivedChan p

/-- V-SES-7 and R227's other outbound-only rows. -/
theorem test_env_rows_dropped :
    outs (exec (.envStatus 0 2) (received [0x0A, 0x00])) = some [] ∧
    outs (exec (.envStatusText 0 2) (received [0x12, 0x00])) = some [] ∧
    outs (exec (.envParamValue 0 2) (received [0x3A, 0x00])) = some [] ∧
    outs (exec (.envMemoryDumpPage 0 2) (received [0x52, 0x00])) = some [] ∧
    see (exec (.envStatus 0 2) (received [0x0A, 0x00])) (·.sesPhase) = some .checkTerm := by
  decide

/-- V-SES-4 and R227's other inbound rows. -/
theorem test_env_rows_routed :
    outs (exec (.envParamRequest 0 2) (received [0x2A, 0x02, 0x08, 0x00])) =
      some [.result (.worker 0) (.bodyOk .paramRequest [0x08, 0x00]), .dispatch 0 .paramRequest [0x08, 0x00]] ∧
    outs (exec (.envTimeReference 0 2) (received [0x1A, 0x00])) =
      some [.result (.worker 0) (.bodyOk .timeReference []), .dispatch 0 .timeReference []] ∧
    outs (exec (.envParamSet 0 2) (received [0x32, 0x00])) =
      some [.result (.worker 0) (.bodyOk .paramSet []), .dispatch 0 .paramSet []] := by
  decide

/-- The output ports in the step an operation takes. -/
def portsOf (i : Instr) (s : State) : Option OutPorts := look (exec i s) (s.outPorts ·)

/-- R106, V-SES-4: `disp_variant` is the tag 5, `disp_len` the two body bytes. -/
theorem test_ports_dispatch :
    (portsOf (.envParamRequest 0 2) (received [0x2A, 0x02, 0x08, 0x00])).map (fun p => (p.chans[0]?).map (·.dispatch)) =
      some (some (some ⟨5, 0x02⟩)) ∧
    (portsOf (.envParamRequest 0 2) (received [0x2A, 0x02, 0x08, 0x00])).map (fun p => (p.chans[1]?).map (·.dispatch)) =
      some (some none) ∧
    (portsOf (.envCommand 0 2) (received [0x22, 0x05, 0x01])).map (fun p => (p.fault, (p.chans[0]?).map (·.dispatch))) =
      some (some 1, some none) := by
  decide

/-- R310: a block at work shows 0 at every port in a cycle of `rst`, and its levels otherwise. -/
theorem test_ports_rst :
    let s := at0 fun ch => { ch with sesPhase := .receive, txJob := .raw .driver [0x01], txPhase := .start }
    look (step { s with script := [.rst inputs0] }) (fun t => ({ s with script := [.rst inputs0] }.outPorts t).chans[0]?) =
      some (some ChanPorts.idle) ∧
    look (step { s with script := [.txTimeout 1] }) (fun t => ({ s with script := [.txTimeout 1] }.outPorts t).chans[0]?) =
      some (some ⟨true, true, true, some 0x01, none, false⟩) := by
  decide

/-- V-SES-8. -/
theorem test_env_command_bad_body :
    outs (exec (.envCommand 0 2) (received [0x22, 0x05, 0x01])) =
      some [.signal .fail, .result (.worker 0) .bodyFail] ∧
    see (exec (.envCommand 0 2) (received [0x22, 0x05, 0x01])) (·.sesPhase) = some .checkTerm := by
  decide

/-- V-SES-6. -/
theorem test_env_log_request :
    outs (exec (.envLogRequest 0 0) (received [0x40, 0x01])) = some [.signal .fail, .result (.worker 0) .bodyFail] ∧
    outs (exec (.envLogRequest 0 2) (received [0x42, 0x00])) = some [.result (.worker 0) (.bodyOk .logRequest [])] := by
  decide

/-- V-SES-5. -/
theorem test_env_memory_dump_gate :
    outs (exec (.envMemoryDumpRequest 0 2) (received [0x4A, 0x01, 0x01])) = some [] ∧
    outs (exec (.envMemoryDumpRequest 0 2)
      { received [0x4A, 0x01, 0x01] with cfg := { inputs0 with dbgMemdump := true } }) =
      some [.result (.worker 0) (.bodyOk .memoryDumpRequest [0x01]), .dispatch 0 .memoryDumpRequest [0x01]] := by
  decide

/-! ## Registry and broadcast: V-REG -/

/-- V-REG-1, V-REG-3. -/
theorem test_reg_claim :
    look (exec (.regClaim 0 0) s0) (fun t => (t.reg, t.out)) =
      some ([some 0, none], [.result (.worker 0) (.claimOk 0)]) ∧
    look (exec (.regClaim 2 0) { s0 with reg := [none, some 1] }) (·.reg) = some [some 2, some 1] := by
  decide

/-- V-REG-2: the last of a full registry. -/
theorem test_reg_claim_full :
    look (exec (.regClaim 2 1) { s0 with reg := [some 0, some 1] }) (fun t => (t.reg, t.out)) =
      some ([some 0, some 1], [.result (.worker 2) .startFail]) := by
  decide

/-- V-REG-3. -/
theorem test_reg_clear :
    look (exec (.regClear 0) { (at0 fun ch => { ch with sesSlot := some 0 }) with reg := [some 0, some 1] }) (·.reg) =
      some [none, some 1] := by
  decide

/-- A broadcast about to visit its slots. -/
def bcast0 : Bcast where
  id     := 0
  caller := .driver
  tag    := 7
  body   := []
  rest   := [0, 1]
  frame  := none
  result := .txOk
  stage  := .visit

/-- R204: the slot is read at its visit. -/
theorem test_bcast_visit :
    look (exec (.bcastSend (.visit 0 1)) { s0 with reg := [none, some 2], bcasts := [bcast0] })
      (fun t => t.bcasts.map fun b => (b.rest, b.stage)) = some [([0], .acq 2)] := by
  decide

/-- V-REG-5. -/
theorem test_bcast_finish :
    look (exec (.bcastSend (.finish 0)) { s0 with bcasts := [{ bcast0 with rest := [] }] })
      (fun t => (t.out, t.bcasts)) = some ([.bcastDone .driver .txOk], []) := by
  decide

/-! ## Session worker: V-SES -/

theorem test_ses_start :
    see (exec (.sesStart 0 .event) s0) (·.ctl) = some .startAcq ∧
    see (exec (.sesStart 0 .init) (at0 fun ch => { ch with rxState := .crc, txSeq := 9 }))
      (fun ch => (ch.rxState, ch.txSeq, ch.txPhase)) = some (.waitStart, 0, .idle) := by
  decide

theorem test_ses_check_term :
    see (exec (.sesCheckTerm 0) (at0 fun ch => { ch with sesPhase := .checkTerm, sesTermReq := true }))
      (·.sesPhase) = some .deregister ∧
    see (exec (.sesCheckTerm 0) (at0 fun ch => { ch with sesPhase := .checkTerm })) (·.sesPhase) =
      some .checkStatus := by
  decide

/-- R223: strictly greater. -/
theorem test_ses_status :
    outs (exec (.sesStatus 0 .compare) { s0 with now := 101 }) = some [.statusCall 0] ∧
    outs (exec (.sesStatus 0 .compare) { s0 with now := 100 }) = some [] := by
  decide

theorem test_ses_receive :
    see (exec (.sesReceive 0) (at0 fun ch => { ch with sesPhase := .receive, ctl := .recvDone (.rxFail .crc) }))
      (·.sesPhase) = some .checkTerm ∧
    see (exec (.sesReceive 0) (at0 fun ch => { ch with sesPhase := .receive, ctl := .recvDone (.rxOk 0 0 0 []) }))
      (·.sesPhase) = some .dispatch := by
  decide

/-- R226's example; V-SES-9. -/
theorem test_ses_dispatch :
    see (exec (.sesDispatch 0 .pass1) (received [0x2A, 0x00])) (·.ctl) = some (.matched .paramRequest 1 2) ∧
    see (exec (.sesDispatch 0 .pass1) (received [])) (·.sesPhase) = some .checkTerm := by
  decide

theorem test_ses_send :
    see (exec (.sesSend 0 4 [0x08, 0x01]) (at0 fun ch => { ch with ctl := .handler (.dispatch .command) })) (·.ctl) =
      some (.replyAcq (.dispatch .command) 4 [0x08, 0x01]) := by
  decide

theorem test_ses_send_ignored : exec (.sesSend 0 4 [0x08, 0x01]) s0 = .next s0 := by rfl

theorem test_ses_stop :
    look (exec (.sesStop 0)
        { (at0 fun ch => { ch with sesPhase := .deregister, sesSlot := some 0 }) with reg := [some 0, some 1] })
      (fun t => (t.reg, (t.chans[0]?).map (·.sesPhase))) = some ([none, some 1], some .finalBcast) ∧
    look (exec (.sesStop 0) (at0 fun ch => { ch with sesPhase := .finalBcast }))
      (fun t => t.bcasts.map fun b => (b.caller, b.tag, b.body)) = some [(.stop 0, 2, [0x62, 0x79, 0x65])] := by
  decide

theorem test_frame :
    see (exec (.frame 0 0x01 0x00 [] 0x6B) (at0 fun ch => { ch with rxs := [0x13] })) (·.rxs) =
      some [0x13, 0xA5, 0x01, 0x00, 0x00, 0x6B] := by
  decide

/-! ## Handlers: S1 to S5, the examples of R247 to R252 -/

/-- Surroundings: three parameters, a reader that fills what it is asked for, every command `TX_OK`. -/
def around : Surroundings where
  answer n q :=
    match q with
    | .isTimeKnown => true
    | .getSystemTime => 500
    | .getTimestamp => 0
    | .setTimestamp _ => (-3 : Int)
    | .sensor _ => (⟨n, none⟩ : Reading)
    | .flag i => i == 1
    | .execute op => (op + 1 : Nat)
    | .count => (3 : Nat)
    | .getById id => if id = 11 then some (⟨11, 5, 0⟩ : Param) else none
    | .getByIndex i => some (⟨11 + i, 5 + i, i⟩ : Param)
    | .set _ _ => SetOutcome.clamped
    | .read _ _ len => List.replicate len (0 : Byte)
  result _ := .txOk
  choice _ := true

/-- R249's example: three parameters, three broadcasts. -/
theorem test_handler_param_dump :
    ((handleParamRequest inputs0 .drop 0 none none).acts around 0).filterMap HandlerAct.sent =
      [.paramValue 11 5 0 3, .paramValue 12 6 1 3, .paramValue 13 7 2 3] := by
  decide

/-- R252's example: 130 bytes in pages of 64. -/
theorem test_handler_memory_dump :
    ((handleMemoryDump cfg0 inputs0 7 .ram 1000 130 3).acts around 0).filterMap
      (fun a => match a with | .reply (.memoryDumpPage _ addr d) => some (addr, d.length) | _ => none) =
      [(1000, 64), (1064, 64), (1128, 2)] := by
  decide

theorem test_handler_memory_dump_errors :
    (handleMemoryDump cfg0 inputs0 7 .unknown 1000 130 3).acts around 0 = [.reportError] ∧
    (handleMemoryDump cfg0 inputs0 7 .externalFlash 9 5 3).acts
      { around with answer := fun n q => match q with | .read _ _ _ => [] | q => around.answer n q } 0 =
      [.call (.read .externalFlash 9 5), .reportError] := by
  decide

/-- R247, R248: the testable sentences; R250. -/
theorem test_handler_filters :
    (handleCommand inputs0 9 1 none).acts around 0 = [] ∧ (handleCommand inputs0 7 1 (some 0)).acts around 0 = [] ∧
    (handleCommand inputs0 7 1 none).acts around 0 = [.call (.execute 1), .reply (.command 7 1 2)] ∧
    (handleParamSet inputs0 9 11 2).acts around 0 = [] ∧
    (handleTimeReference inputs0 0 5 (some 1)).acts around 0 = [] := by
  decide

theorem test_handler_calls :
    (handleTimeReference inputs0 0 5 none).acts around 0 =
      [.call (.setTimestamp 5), .call .getSystemTime, .reply (.timeReference 0 5 500 (-3))] ∧
    (handleParamSet inputs0 7 11 2).acts around 0 =
      [.call (.set 11 2), .call (.getById 11), .call .count, .broadcast (.paramValue 11 5 0 3)] ∧
    (handleStatus inputs0 2 [.rpm] 2).acts around 4 =
      [.call (.flag 0), .call (.flag 1), .call (.sensor (.sensor .rpm)),
       .reply (.status 2 [(.rpm, ⟨6, none⟩)] none)] := by
  decide

/-- R246: raw-ADC values with the debug flag only. -/
theorem test_handler_status_raw :
    (handleStatus { inputs0 with dbgAdcRaw := true } 0 [.fuelFlow] 2).acts around 0 =
      [.call (.sensor (.sensor .fuelFlow)), .call (.sensor (.rawAdc 0)), .call (.sensor (.rawAdc 1)),
       .reply (.status 0 [(.fuelFlow, ⟨0, none⟩)] (some [⟨1, none⟩, ⟨2, none⟩]))] := by
  decide

/-- R245: the commands of a handler reach the block as stimuli, and then its return. -/
theorem test_handler_stims :
    (handleCommand inputs0 7 1 none).stims around cfg0 (fun _ => [0x01]) .outside 0 =
      [.reply 0 4 [0x01], .handlerDone 0] := by
  decide

/-- A reading of bodies: the engine id is the first byte, an operation or parameter the second. -/
def fields0 : BodyFields where
  engineId _ x := (x.getD 0 0).toNat
  peerTs x := (x.getD 1 0).toNat
  diff _ := none
  operation x := (x.getD 1 0).toNat
  response x := if x.length = 3 then some 0 else none
  byId _ := none
  byIndex _ := none
  setId x := (x.getD 1 0).toNat
  setValue x := (x.getD 2 0).toNat
  region _ := .ram
  address _ := 0
  size _ := 1
  streamId _ := 0
  value _ := [0x01]

/-- What is open of the handlers, at some values. -/
def params0 : HandlerParams := ⟨fields0, .drop, 0, [], 0, .outside⟩

/-- R245, R248: a dispatched command is filtered by its engine id and answered; one with a response is not. -/
theorem test_handler_dispatch :
    (Output.dispatch 0 .command [0x07, 0x01]).handlerStims params0 around cfg0 inputs0 =
      [.reply 0 4 [0x01], .handlerDone 0] ∧
    (Output.dispatch 0 .command [0x09, 0x01]).handlerStims params0 around cfg0 inputs0 = [.handlerDone 0] ∧
    (Output.dispatch 0 .command [0x07, 0x01, 0x00]).handlerStims params0 around cfg0 inputs0 = [.handlerDone 0] ∧
    (Output.statusCall 1).handlerStims params0 around cfg0 inputs0 = [.reply 1 1 [0x01], .handlerDone 1] := by
  decide

/-! ## Witnesses: for each obligation with hypotheses, inputs that meet them together, clause by clause -/

/-- A channel whose receiver has read half a frame. -/
def busyRx : Chan :=
  { Chan.reset with
    rxState := .payload, rxLen := 2, rxCnt := 1, rxCrc := 0x1C, rxBuf := [(0, 0x0A)]
    sesPhase := .receive, sesSlot := some 0, ctl := .recvRead }

/-- A channel on which a broadcast has sent half a frame. -/
def busyTx : Chan :=
  { Chan.reset with
    txSeq := 1, txLen := 2, txBuf := [(0, 0x0A)], txPhase := .payload, txIdx := 1, txCrc := 0x1C
    txJob := .send (.bcast 0), sesPhase := .receive, sesSlot := some 1, ctl := .recvTop }

/-- A channel in the midst of a start. -/
def busyStart : Chan := { Chan.reset with ctl := .startInit }

/-- The broadcast of `busy`. -/
def busyBcast : Bcast :=
  ⟨0, .driver, 1, [], [0], some [0xA5, 0x00, 0x00, 0x02, 0x0A, 0x00, 0x54], .txOk, .wait 1⟩

/-- A machine at work: a frame half received on channel 0, a broadcast's frame half sent on channel 1, a start on
channel 2. -/
def busy : State :=
  { s0 with
    chans  := [busyRx, busyTx, busyStart]
    reg    := [some 0, some 1]
    locks  := [.free, .held (.bcast 0), .held (.worker 2)]
    bcasts := [busyBcast]
    nextBc := 1
    script := [.txReady 1, .rxByte 0 0x00, .worker 2] }

theorem witness_busy_steps :
    outs (step busy) = some [.emit 1 0x00] ∧
    outs (step { busy with script := [.rxByte 0 0x00] }) = some [] ∧
    outs (step { busy with script := [.worker 2] }) = some [] := by
  decide

/-- What holds of the three channels of `busy` holds of all. -/
theorem busy_chans {P : Chan → Prop} (h0 : P busyRx) (h1 : P busyTx) (h2 : P busyStart) : ∀ ch ∈ busy.chans, P ch := by
  intro ch h
  simp only [busy, List.mem_cons, List.not_mem_nil, or_false] at h
  rcases h with rfl | rfl | rfl <;> assumption

set_option maxRecDepth 8192 in
theorem witness_busy_rxInv : busy.rxInv :=
  busy_chans (P := fun ch => ch.rxInv busy.config) ⟨by decide, by decide, by rfl⟩ trivial trivial

set_option maxRecDepth 8192 in
theorem witness_busy_txInv : busy.txInv :=
  busy_chans (P := fun ch => ch.txInv busy.config) rfl ⟨by decide, by rfl⟩ rfl

theorem witness_busy_memInv : busy.memInv := by
  refine ⟨by decide, ?_⟩
  intro b hb f hf
  simp only [busy, List.mem_singleton] at hb
  subst hb
  cases hf
  decide

theorem witness_busy_sizeInv : busy.sizeInv := by
  unfold State.sizeInv
  decide

theorem witness_busy_sesInv : busy.sesInv := by
  refine busy_chans ?_ ?_ ?_ <;> exact ⟨by decide, by decide, by decide, by decide, by decide⟩

/-- A channel of `busy` is one of the three. -/
theorem busy_cases {c : ChanId} {ch : Chan} (h : busy.chans[c]? = some ch) :
    (c = 0 ∧ ch = busyRx) ∨ (c = 1 ∧ ch = busyTx) ∨ (c = 2 ∧ ch = busyStart) := by
  rcases c with _ | _ | _ | c <;> simp [busy] at h <;> simp [h]

theorem witness_busy_regInv : busy.regInv := by
  refine ⟨?_, ?_⟩
  · intro c ch h i
    rcases busy_cases h with ⟨rfl, rfl⟩ | ⟨rfl, rfl⟩ | ⟨rfl, rfl⟩ <;>
      rcases i with _ | _ | i <;> simp [busy, busyRx, busyTx, busyStart, Chan.reset]
  · intro i c h
    rcases i with _ | _ | i <;> simp [busy] at h <;> subst h <;> decide

theorem witness_busy_lockInv : busy.lockInv where
  worker c ch h := by
    rcases busy_cases h with ⟨rfl, rfl⟩ | ⟨rfl, rfl⟩ | ⟨rfl, rfl⟩ <;> decide
  bcast b hb c hc := by
    simp only [busy, List.mem_singleton] at hb
    subst hb
    cases hc
    decide
  ofWorker m c h := by
    rcases m with _ | _ | _ | m <;> simp [busy] at h
    subst h
    exact ⟨by decide, _, rfl, by decide⟩
  ofBcast m k h := by
    rcases m with _ | _ | _ | m <;> simp [busy] at h
    subst h
    exact ⟨_, List.mem_singleton.2 rfl, rfl, 1, rfl, by decide⟩
  job c ch a h ha := by
    rcases busy_cases h with ⟨rfl, rfl⟩ | ⟨rfl, rfl⟩ | ⟨rfl, rfl⟩ <;> cases ha
    decide
  jobWorker c ch d h ha := by
    rcases busy_cases h with ⟨rfl, rfl⟩ | ⟨rfl, rfl⟩ | ⟨rfl, rfl⟩ <;> cases ha
  jobBcast c ch k h ha := by
    rcases busy_cases h with ⟨rfl, rfl⟩ | ⟨rfl, rfl⟩ | ⟨rfl, rfl⟩ <;> cases ha
    exact ⟨_, List.mem_singleton.2 rfl, rfl, rfl⟩
  jobs c d ch dh hc hd jc jd _ := by
    rcases busy_cases hc with ⟨rfl, rfl⟩ | ⟨rfl, rfl⟩ | ⟨rfl, rfl⟩ <;>
      rcases busy_cases hd with ⟨rfl, rfl⟩ | ⟨rfl, rfl⟩ | ⟨rfl, rfl⟩ <;>
      first | rfl | exact absurd rfl jc | exact absurd rfl jd
  fresh := by decide

theorem witness_ReceiverOperationMap : (0xA4 : Byte) ≠ 0xA5 ∧ RxState.crc ≠ .payload := by decide

theorem witness_DecodeOfEncode :
    Instr.wellFormed 0x7E (.rxDiscard 0 0xA5) = true ∧ Instr.wellFormed 0x7E (.frame 1 0 0 [] 0) = true ∧
    Instr.wellFormed 0xA5 (.txSend (2 ^ 64 - 1) (.call (.worker (2 ^ 64 - 1)) 0xFF)) = true ∧
    Instr.wellFormed 0xA5 (.rxDiscard 0 0xA4) = true ∧
    Instr.wellFormed 0xA5 (.bcastSend (.visit (2 ^ 64 - 1) (2 ^ 64 - 1))) = true ∧
    Instr.wellFormed 0xA5 (.txRaw 0 (.call .driver [0xA5, 0x01, 0x00, 0x00, 0x6B])) = true := by
  decide

theorem witness_VarintCoding :
    2 ^ 64 - 1 < 2 ^ 64 ∧ readVarint [0x80, 0x00] = some (0, 2) ∧
    ((∀ b ∈ List.replicate 9 (0xFF : Byte), 128 ≤ b.toNat) ∧ (0x7F : Byte).toNat < 128 ∧
      (List.replicate 9 (0xFF : Byte)).length ≤ 9) ∧
    ((∀ b ∈ List.replicate 10 (0x80 : Byte), 128 ≤ b.toNat) ∧ 10 ≤ (List.replicate 10 (0x80 : Byte)).length) := by
  decide

theorem witness_FrameLayout : (List.replicate 255 (0 : Byte)).length ≤ 255 ∧ cfg0.crcXorout = 0 := by
  rw [List.length_replicate]
  decide

theorem witness_EnvelopeRoundTrip :
    (held0 id).chans[0]? = some Chan.reset ∧ (held0 id).holds .driver 0 = true ∧
    (held0 id).writePending ((held0 id).mediumOf 0) = false ∧ Memory.wf Chan.reset.txBuf = true ∧
    (held0 id).config.tags = [1, 2, 3, 4, 5, 6, 7, 8, 9, 10] ∧ (List.replicate 252 (0 : Byte)).length ≤ 252 := by
  rw [List.length_replicate]
  decide

/-- The identity codec has law L1. -/
theorem witness_EnvelopeRoundTrip_lawful :
    codecLawful (held0 id).config ∧ bodyOk (held0 id).config .command (List.replicate 252 0) = true ∧
    (bodyEncode (held0 id).config .command (List.replicate 252 0)).length ≤ 252 :=
  ⟨fun _ x _ => ⟨x, rfl, fun _ _ => rfl⟩, rfl, Nat.le_of_eq (List.length_replicate ..)⟩

theorem witness_UnknownFieldsSkipped :
    ∀ x ∈ [((0 : BitVec 3), [(0x05 : Byte)]), (1, [1, 2, 3, 4, 5, 6, 7, 8]), (2, [0x00]), (5, [1, 2, 3, 4])],
      (15 : Nat) ≠ 0 ∧ variantOf cfg0 15 = none ∧ keyOf 15 x.1 < 2 ^ 64 ∧ skipField x.1 (x.2 ++ [0x1A]) = some x.2.length := by
  decide

/-- A CRC step with the properties P1 and P2: with the polynomial 0x01 a byte turns once round. -/
theorem turn_round : ∀ x : Byte, repeatByte (crcShift 0x01) 8 x = x := by decide

theorem witness_CrcDetectsOneByte :
    (∀ r, Function.Injective fun b => crc8Update { cfg0 with crc := .poly 0x01 true } r b) ∧
    (∀ b, Function.Injective fun r => crc8Update { cfg0 with crc := .poly 0x01 true } r b) ∧ (0x00 : Byte) ≠ 0x01 := by
  refine ⟨fun r x y h => ?_, fun b x y h => ?_, by decide⟩
  · simpa only [crc8Update, crcStep, turn_round, BitVec.xor_right_inj] using h
  · simpa only [crc8Update, crcStep, turn_round, BitVec.xor_left_inj] using h

/-- A lawful instance: that CRC step, and the identity codec. -/
theorem test_lawful : lawful { cfg0 with crc := .poly 0x01 true } := by
  refine ⟨by decide, ⟨fun r => ?_, fun b => ?_⟩, fun _ x _ => ⟨x, rfl, fun _ _ => rfl⟩⟩
  · simp only [crc8Update, crcStep, turn_round]
    exact (Function.Involutive.bijective fun x => by simp)
  · simp only [crc8Update, crcStep, turn_round]
    exact (Function.Involutive.bijective fun x => by simp)

/-- Every channel of the machine after reset: the witness of the statements whose one hypothesis is that the channel
exists (RxHeaderSteps, RxBulkFailures, CheckTermStep, FramePresented). -/
theorem witness_channel : s0.chans[0]? = some Chan.reset ∧ s0.chans[2]? = some Chan.reset := by decide

/-- The last byte of the longest payload is due. -/
def lastByte : Chan := { Chan.reset with rxState := .payload, rxLen := 0xFF, rxCnt := 254, rxBuf := [(0, 0x01)] }

theorem witness_RxLengthAndPayloadSteps :
    (at0 fun _ => lastByte).chans[0]? = some lastByte ∧ lastByte.rxState = .payload ∧
    lastByte.rxCnt < lastByte.rxLen.toNat ∧ Memory.wf lastByte.rxBuf = true := by
  decide

theorem witness_RxCrcStep :
    atCrc.chans[0]? = some crcChan ∧ (0x6B : Byte) = crcFinal atCrc.config crcChan.rxCrc ∧
    (0x6A : Byte) ≠ crcFinal atCrc.config crcChan.rxCrc ∧ atCrc.config.crcXorout = 0 := by
  decide

/-- The machine that gives up a frame on an idle timeout. -/
def resync : State := { s0 with config := { cfg0 with idleKeepsState := false } }

theorem witness_RxIdleSteps :
    s0.chans[2]? = some Chan.reset ∧ s0.config.idleKeepsState = true ∧
    resync.chans[2]? = some Chan.reset ∧ resync.config.idleKeepsState = false := by
  decide

/-- A channel whose worker is asked to stop. -/
def asked : Chan := { Chan.reset with sesTermReq := true }

theorem witness_RxReceiveLoop :
    (at0 fun _ => asked).chans[0]? = some asked ∧ asked.sesTermReq = true ∧ asked.rxState ≠ .payload ∧
    s0.chans[0]? = some Chan.reset ∧ Chan.reset.sesTermReq = false ∧
    (at0 fun _ => { asked with rxState := .payload }).chans[0]? = some { asked with rxState := .payload } ∧
    askedInRead.chans[0]? = some { Chan.reset with sesPhase := .receive, sesTermReq := true, ctl := .recvRead } := by
  decide

theorem witness_RxTransitionTable :
    (at0 fun _ => lastByte).chans[0]? = some lastByte ∧ (lastByte.rxState = .payload → lastByte.rxCnt < lastByte.rxLen.toNat) := by
  decide

theorem witness_ReceiverInvariantKept : ∃ t, busy.memInv ∧ busy.rxInv ∧ step busy = .next t :=
  ⟨_, witness_busy_memInv, witness_busy_rxInv, rfl⟩

/-- A channel whose receiver has seen the start marker. -/
def started : Chan := { Chan.reset with rxState := .seq }

theorem witness_ResultAfterExactly :
    (at0 fun _ => started).chans[0]? = some started ∧ started.rxState = .seq ∧
    (List.replicate 255 (0 : Byte)).length = (0xFF : Byte).toNat ∧ ([] : List Byte).length = (0x00 : Byte).toNat ∧
    258 < 4 + (List.replicate 255 (0 : Byte)).length :=
  ⟨by decide, rfl, List.length_replicate, rfl, by rw [List.length_replicate]; decide⟩

theorem witness_LoopbackDelivers :
    s0.chans[0]? = some Chan.reset ∧ resync.chans[2]? = some Chan.reset ∧ resync.config = resync.config ∧
    Chan.reset.rxState = .waitStart ∧ Memory.wf Chan.reset.rxBuf = true := by
  decide

set_option maxRecDepth 8192 in
theorem witness_GoodFrameAfterCorruptOne :
    s0.chans[0]? = some Chan.reset ∧ Chan.reset.rxState = .waitStart ∧ Memory.wf Chan.reset.rxBuf = true ∧
    ([] : List Byte).length ≤ 255 ∧ (List.replicate 255 (0 : Byte)).length ≤ 255 ∧
    (0x6A : Byte) ≠ frameCrc s0.config 0x01 0x00 [] := by
  rw [List.length_replicate]
  decide

theorem witness_EventsWithoutPendingAccess :
    s0.chans[2]? = some Chan.reset ∧ Chan.reset.sesPhase ≠ .receive ∧ Chan.reset.txJob = .none ∧
    { s0 with script := [.rxByte 2 0x55] }.script = .rxByte 2 0x55 :: [] ∧
    { s0 with script := [.txReady 2] }.script = .txReady 2 :: [] := by
  decide

/-- A worker whose reply is being written. -/
def replying : Chan :=
  { Chan.reset with
    txPhase := .start, txJob := .send (.worker 0), sesPhase := .dispatch, sesSlot := some 0
    ctl := .replyWait (.dispatch .command) }

/-- The machine with it on channel 0. -/
def replyState : State := (at0 fun _ => replying).setLock 0 (.held (.worker 0))

/-- A channel of `replyState` is the replying one or as reset left it. -/
theorem reply_cases {c : ChanId} {ch : Chan} (h : replyState.chans[c]? = some ch) :
    (c = 0 ∧ ch = replying) ∨ ((c = 1 ∨ c = 2) ∧ ch = Chan.reset) := by
  have e : replyState.chans = [replying, Chan.reset, Chan.reset] := rfl
  rw [e] at h
  rcases c with _ | _ | _ | c <;> simp at h <;> simp [h]

theorem witness_reply_lockInv : replyState.lockInv where
  worker c ch h := by
    rcases reply_cases h with ⟨rfl, rfl⟩ | ⟨rfl | rfl, rfl⟩ <;> decide
  bcast b hb := absurd hb List.not_mem_nil
  ofWorker m c h := by
    have e : replyState.locks = [.held (.worker 0), .free, .free] := rfl
    rw [e] at h
    rcases m with _ | _ | _ | m <;> simp at h
    subst h
    exact ⟨rfl, _, rfl, rfl⟩
  ofBcast m k h := by
    have e : replyState.locks = [.held (.worker 0), .free, .free] := rfl
    rw [e] at h
    rcases m with _ | _ | _ | m <;> simp at h
  job c ch a h ha := by
    rcases reply_cases h with ⟨rfl, rfl⟩ | ⟨rfl | rfl, rfl⟩ <;> cases ha
    rfl
  jobWorker c ch d h ha := by
    rcases reply_cases h with ⟨rfl, rfl⟩ | ⟨rfl | rfl, rfl⟩ <;> cases ha
    exact ⟨rfl, _, rfl⟩
  jobBcast c ch k h ha := by
    rcases reply_cases h with ⟨rfl, rfl⟩ | ⟨rfl | rfl, rfl⟩ <;> cases ha
  jobs c d ch dh hc hd jc jd _ := by
    rcases reply_cases hc with ⟨rfl, rfl⟩ | ⟨rfl | rfl, rfl⟩ <;>
      rcases reply_cases hd with ⟨rfl, rfl⟩ | ⟨rfl | rfl, rfl⟩ <;>
      first | rfl | exact absurd rfl jc | exact absurd rfl jd
  fresh := by decide

theorem witness_EventsWithoutPendingAccess_caller :
    (replyState.lockInv ∧ replyState.chans[0]? = some replying ∧ replying.txJob.caller = some (.worker 0)) ∧
    busy.lockInv ∧ busy.chans[1]? = some busyTx ∧ busyTx.txJob.caller = some (.bcast 0) :=
  ⟨⟨witness_reply_lockInv, rfl, rfl⟩, witness_busy_lockInv, rfl, rfl⟩

theorem witness_RegisterWriters :
    exec (.rxSeq 0 0x01) s0 = .next (s0.setChan 0 { Chan.reset with rxSeq := 0x01, rxCrc := 0x07, rxState := .msgid }) ∧
    s0.chans[2]? = some Chan.reset ∧ touchesReceiver 2 (.rxSeq 0 0x01) = false := by
  exact ⟨by rfl, by decide, by decide⟩

/-- A channel with the longest payload to send. -/
def long : Chan := { Chan.reset with txLen := 0xFF, txSeq := 0xFF }

/-- The driver, about to send it. -/
def longState : State := held0 fun _ => long

theorem witness_TxSendEmitsFrame :
    longState.chans[0]? = some long ∧ longState.holds .driver 0 = true ∧
    longState.writePending (longState.mediumOf 0) = false ∧ 260 ≤ 5 + long.txLen.toNat ∧ 0 ≤ 5 + long.txLen.toNat := by
  decide

theorem witness_WriteAborts :
    busy.chans[1]? = some busyTx ∧ busyTx.txJob = .send (.bcast 0) ∧
    (at0 fun ch => { ch with txJob := .raw .driver [0x00] }).chans[0]? = some { Chan.reset with txJob := .raw .driver [0x00] } ∧
    longState.chans[0]? = some long ∧ longState.holds .driver 0 = true ∧
    longState.writePending (longState.mediumOf 0) = false ∧ 259 ≤ 4 + long.txLen.toNat := by
  decide

theorem witness_TxRawEmitsFrame :
    longState.chans[0]? = some long ∧ longState.holds .driver 0 = true ∧
    longState.writePending (longState.mediumOf 0) = false ∧
    5 ≤ ([0xA5, 0x01, 0x00, 0x00, 0x6B] : List Byte).length ∧ 0 ≤ ([] : List Byte).length := by
  decide

theorem witness_SenderInvariantKept : ∃ t, busy.lockInv ∧ busy.txInv ∧ step busy = .next t :=
  ⟨_, witness_busy_lockInv, witness_busy_txInv, rfl⟩

theorem witness_LockOperations :
    s0.locks[2]? = some Lock.free ∧ (held0 id).locks[0]? = some (Lock.held Agent.driver) ∧
    (held0 id).writePending 0 = false ∧
    Lock.free ≠ .held .driver ∧ Lock.held .driver ≠ .held (.worker 0) := by
  decide

theorem witness_LockInvariantKept_driverIdle :
    { replyState with script := [.txReady 0] }.driverIdle ∧
    outs (step { replyState with script := [.txReady 0] }) = some [.emit 0 0xA5] :=
  ⟨⟨by decide, by decide, by decide⟩, by decide⟩

theorem witness_LockInvariantKept_EmitsOnlyUnderLock : ∃ t, busy.lockInv ∧ step busy = .next t :=
  ⟨_, witness_busy_lockInv, rfl⟩

theorem witness_EncodeWritesEnvelope :
    (held0 id).chans[0]? = some Chan.reset ∧ (held0 id).holds .driver 0 = true ∧
    (held0 id).writePending ((held0 id).mediumOf 0) = false ∧ Memory.wf Chan.reset.txBuf = true ∧
    variantOf cfg0 11 = none ∧ variantOf cfg0 10 ≠ none ∧
    255 < (envelope 10 (List.replicate 253 (0 : Byte))).length ∧
    (envelope 10 (List.replicate 252 (0 : Byte))).length ≤ 255 := by
  refine ⟨by decide, by decide, by decide, by decide, by decide, by decide, ?_, ?_⟩
  · rw [(test_env_lengths _).2.2.2 List.length_replicate]
    decide
  · rw [(test_env_lengths _).2.2.1 List.length_replicate]

theorem witness_DiscriminateReadsOnly :
    discriminate cfg0 [0x1A] = some (.timeReference, 1, 2) ∧ discriminate cfg0 [] = none ∧ keyOf 15 3 < 2 ^ 64 ∧
    variantOf cfg0 15 = none ∧ keyOf 10 7 < 2 ^ 64 ∧ variantOf cfg0 10 = some .memoryDumpPage := by
  decide

theorem witness_BodyDecodeResult :
    (discriminate cfg0 [0x1A, 0x01, 0x09] = some (.timeReference, 1, 2) ∧
      readVarint (([0x1A, 0x01, 0x09] : List Byte).drop 1) = some (1, 1) ∧
      1 + 1 + 1 ≤ ([0x1A, 0x01, 0x09] : List Byte).length ∧
      bodyDecode cfg0 .timeReference (((([0x1A, 0x01, 0x09] : List Byte).drop 1).drop 1).take 1) = some [0x09]) ∧
    discriminate cfg0 [0x1A, 0x02, 0x09] = some (.timeReference, 1, 2) ∧
    ¬ 1 + 1 + 2 ≤ ([0x1A, 0x02, 0x09] : List Byte).length := by
  decide

theorem witness_BodyDecodeResult_fails :
    ∀ off n p x, discriminate cfg0 [0x08, 0x01] = some (.status, off, 2) →
      readVarint (([0x08, 0x01] : List Byte).drop off) = some (n, p) → off + p + n ≤ 2 →
      bodyDecode cfg0 .status (((([0x08, 0x01] : List Byte).drop off).drop p).take n) ≠ some x := by
  intro off n p x h
  rw [show discriminate cfg0 [0x08, 0x01] = some (.status, 1, 0) by decide] at h
  simp at h

theorem witness_DispatchTable :
    (received [0x2A, 0x01, 0x08]).chans[0]? = some (receivedChan [0x2A, 0x01, 0x08]) ∧
    decodeBody cfg0 .paramRequest (receivedChan [0x2A, 0x01, 0x08]).rxPayload = some [0x08] ∧
    decodeBody cfg0 .command (receivedChan [0x2A, 0x01, 0x08]).rxPayload = none ∧ (0 : BitVec 3) ≠ 2 ∧
    (received [0x2A, 0x01, 0x08]).cfg.dbgMemdump = false ∧
    decodeBody cfg0 .logRequest (receivedChan [0x42, 0x00]).rxPayload = some [] ∧
    decodeBody cfg0 .memoryDumpRequest (receivedChan [0x4A, 0x00]).rxPayload = some [] ∧
    { received [0x4A, 0x00] with cfg := { inputs0 with dbgMemdump := true } }.cfg.dbgMemdump = true ∧
    discriminate cfg0 (receivedChan []).rxPayload = none := by
  decide

/-- A start that looks for a slot. -/
def claiming : Chan := { Chan.reset with ctl := .startClaim 0 }

theorem witness_ClaimScan :
    (at0 fun _ => claiming).chans[0]? = some claiming ∧ claiming.sesSlot = none ∧
    (at0 fun _ => claiming).reg[1]? = some none ∧
    { s0 with reg := [some 0, some 1] }.reg[0]? = some (some 0) ∧ 0 + 1 < { s0 with reg := [some 0, some 1] }.reg.length ∧
    1 + 1 = { s0 with reg := [some 0, some 1] }.reg.length ∧
    busy.chans[0]? = some busyRx ∧ busyRx.sesSlot = some 0 ∧
    { (at0 fun _ => claiming) with reg := [some 1, none] }.reg = [some 1] ++ none :: [] ∧
    (∀ r ∈ [some (1 : ChanId)], r ≠ none) := by
  decide

theorem witness_ClearOwnSlot :
    s0.chans[2]? = some Chan.reset ∧ Chan.reset.sesSlot = none ∧ busy.chans[1]? = some busyTx ∧ busyTx.sesSlot = some 1 := by
  decide

theorem witness_RegistryInvariantKept : ∃ t, busy.regInv ∧ step busy = .next t := ⟨_, witness_busy_regInv, rfl⟩

/-- Channel 2 in a broadcast's hands, at the stage `f`. -/
def inBcast (f : BcastStage) : State :=
  { s0 with
    locks  := [.free, .free, .held (.bcast 0)]
    reg    := [none, some 2]
    bcasts := [{ busyBcast with stage := f, rest := [0, 1] }]
    nextBc := 1 }

theorem witness_BroadcastSteps_release :
    { inBcast (.encode 2) with bcasts := [{ busyBcast with stage := .encode 2, tag := 11 }] }.findBcast 0 =
      some { busyBcast with stage := .encode 2, tag := 11 } ∧
    variantOf (inBcast (.encode 2)).config 11 = none ∧
    (inBcast (.rel 2 (.sent .txFail))).findBcast 0 =
      some { busyBcast with stage := .rel 2 (.sent .txFail), rest := [0, 1] } ∧
    (inBcast (.rel 2 (.encFailed .tooLong))).findBcast 0 =
      some { busyBcast with stage := .rel 2 (.encFailed .tooLong), rest := [0, 1] } ∧
    (inBcast (.rel 2 (.sent .txFail))).locks[(inBcast (.rel 2 (.sent .txFail))).mediumOf 2]? = some (.held (.bcast 0)) ∧
    (inBcast (.rel 2 (.sent .txFail))).writePending ((inBcast (.rel 2 (.sent .txFail))).mediumOf 2) = false := by
  decide

theorem witness_BroadcastSteps :
    (at0 fun ch => { ch with ctl := .handler .status }).chans[0]? = some { Chan.reset with ctl := .handler .status } ∧
    (inBcast .visit).findBcast 0 = some { busyBcast with stage := .visit, rest := [0, 1] } ∧
    (inBcast .visit).reg[1]? = some (some 2) ∧ (inBcast .visit).reg[0]? = some none ∧
    (inBcast (.copy 2)).findBcast 0 = some { busyBcast with stage := .copy 2, rest := [0, 1] } ∧
    (inBcast (.copy 2)).chans[2]? = some Chan.reset ∧ (inBcast (.copy 2)).holds (.bcast 0) 2 = true ∧
    (inBcast (.copy 2)).writePending ((inBcast (.copy 2)).mediumOf 2) = false ∧
    { s0 with bcasts := [{ bcast0 with rest := [] }] }.findBcast 0 = some { bcast0 with rest := [] } := by
  decide

/-- The last byte of a send, or of a raw write, of broadcast 0 is due on channel 1. -/
def waiting (job : TxJob) : State :=
  { busy with
    chans  := [busyRx, { busyTx with txJob := job, txPhase := .crc }, busyStart]
    bcasts := [{ busyBcast with stage := .wait 1 }] }

theorem witness_BroadcastForwardsFrame_send :
    (∃ t b, step busy = .next t ∧ busy.findBcast 0 = some busyBcast ∧ t.findBcast 0 = some b ∧
      busyBcast.frame ≠ none ∧ busyBcast.stage = .wait 1) ∧
    (inBcast (.send 2)).findBcast 0 = some { busyBcast with stage := .send 2, rest := [0, 1] } ∧
    (inBcast (.raw 2)).findBcast 0 = some { busyBcast with stage := .raw 2, rest := [0, 1] } ∧
    (inBcast (.send 2)).holds (.bcast 0) 2 = true ∧
    (inBcast (.send 2)).writePending ((inBcast (.send 2)).mediumOf 2) = false ∧
    (waiting (.send (.bcast 0))).findBcast 0 = some { busyBcast with stage := .wait 1 } ∧
    (waiting (.send (.bcast 0))).chans[1]? = some { busyTx with txJob := .send (.bcast 0), txPhase := .crc } ∧
    (waiting (.raw (.bcast 0) [0x54])).chans[1]? = some { busyTx with txJob := .raw (.bcast 0) [0x54], txPhase := .crc } :=
  ⟨⟨_, _, rfl, rfl, rfl, by decide, rfl⟩, by decide⟩

theorem witness_BroadcastForwardsFrame :
    (inBcast (.encode 2)).holds (.bcast 0) 2 = true ∧
    (inBcast (.encode 2)).writePending ((inBcast (.encode 2)).mediumOf 2) = false ∧
    variantOf (inBcast (.encode 2)).config busyBcast.tag ≠ none ∧ (envelope busyBcast.tag busyBcast.body).length ≤ 255 ∧
    (inBcast (.encode 2)).chans[2]? = some Chan.reset ∧
    { inBcast (.acq 2) with locks := [.free, .free, .free] }.locks[s0.mediumOf 2]? = some .free ∧
    busyBcast.frame ≠ none ∧ bcast0.frame = none := by
  decide

theorem witness_BroadcastWithoutSession :
    (∀ r ∈ s0.reg, r = none) ∧ (∀ b ∈ s0.bcasts, b.id < s0.nextBc) ∧ ([1, 0] : List SlotId).Nodup ∧
    (∀ i, i ∈ ([1, 0] : List SlotId) ↔ i < s0.reg.length) := by
  refine ⟨by decide, by decide, by decide, fun i => ?_⟩
  rw [show s0.reg.length = 2 from rfl]
  rcases i with _ | _ | i <;> simp

theorem witness_BroadcastWithoutSession_callers :
    (∀ r ∈ (at0 fun ch => { ch with ctl := .handler .status }).reg, r = none) ∧
    (at0 fun ch => { ch with ctl := .handler .status }).chans[0]? = some { Chan.reset with ctl := .handler .status } ∧
    (at0 fun ch => { ch with sesPhase := .finalBcast }).chans[0]? = some { Chan.reset with sesPhase := .finalBcast } := by
  decide

theorem witness_StartSteps :
    busy.chans[0]? = some busyRx ∧ busyRx.sesPhase ≠ .stopped ∧ s0.chans[2]? = some Chan.reset ∧
    Chan.reset.sesPhase = .stopped ∧ Chan.reset.ctl = .run := by
  decide

/-- One slot is taken. -/
def oneTaken : State := { s0 with reg := [some 0, none] }

theorem witness_StartRuns :
    oneTaken.chans[2]? = some Chan.reset ∧ Chan.reset.sesPhase = .stopped ∧ Chan.reset.ctl = .run ∧
    Chan.reset.sesSlot = none ∧ oneTaken.locks[oneTaken.mediumOf 2]? = some .free ∧
    oneTaken.writePending (oneTaken.mediumOf 2) = false ∧ oneTaken.reg = [some 0] ++ none :: [] ∧
    (∀ r ∈ [some (0 : ChanId)], r ≠ none) := by
  decide

/-- Every slot is taken. -/
def allTaken : State := { s0 with reg := [some 0, some 1] }

theorem witness_StartFailsWhenFull :
    allTaken.chans[2]? = some Chan.reset ∧ Chan.reset.sesPhase = .stopped ∧ Chan.reset.ctl = .run ∧
    Chan.reset.sesSlot = none ∧ allTaken.locks[allTaken.mediumOf 2]? = some .free ∧
    allTaken.writePending (allTaken.mediumOf 2) = false ∧ allTaken.reg ≠ [] ∧ (∀ r ∈ allTaken.reg, r ≠ none) := by
  decide

theorem witness_StatusSteps :
    s0.chans[2]? = some Chan.reset ∧
    { s0 with now := 101 }.cfg.statusPeriod.toNat < ({ s0 with now := 101 }.now - Chan.reset.sesLastStatus).toNat ∧
    ({ s0 with now := 100 }.now - Chan.reset.sesLastStatus).toNat ≤ { s0 with now := 100 }.cfg.statusPeriod.toNat := by
  decide

theorem witness_ReceiveAndDispatchSteps :
    s0.chans[2]? = some Chan.reset ∧ Chan.reset.ctl = .run ∧
    (at0 fun _ => { Chan.reset with ctl := .recvDone .rxNoData }).chans[0]? =
      some { Chan.reset with ctl := .recvDone .rxNoData } ∧
    (received [0x2A, 0x00]).chans[0]? = some (receivedChan [0x2A, 0x00]) ∧
    discriminate cfg0
      (Memory.readN (receivedChan [0x2A, 0x00]).rxBuf 0 (receivedChan [0x2A, 0x00]).rxLen.toNat) =
      some (.paramRequest, 1, 2) := by
  decide

/-- A channel whose handler runs. -/
def handling : Chan := { Chan.reset with ctl := .handler (.dispatch .command), sesPhase := .dispatch }

theorem witness_ReplyEmitsMessage :
    (∀ h, Chan.reset.ctl ≠ .handler h) ∧ s0.chans[2]? = some Chan.reset ∧
    (at0 fun _ => handling).chans[0]? = some handling ∧ handling.ctl = .handler (.dispatch .command) ∧
    (at0 fun _ => handling).locks[(at0 fun _ => handling).mediumOf 0]? = some .free ∧
    (at0 fun _ => handling).writePending ((at0 fun _ => handling).mediumOf 0) = false ∧
    Memory.wf handling.txBuf = true ∧ variantOf cfg0 10 ≠ none ∧
    (envelope 10 (List.replicate 252 (0 : Byte))).length ≤ 255 ∧ variantOf cfg0 0 = none ∧
    255 < (envelope 10 (List.replicate 253 (0 : Byte))).length := by
  refine ⟨fun h e => ?_, by decide, by decide, rfl, by decide, by decide, by decide, by decide, ?_, by decide, ?_⟩
  · cases e
  · rw [(test_env_lengths _).2.2.1 List.length_replicate]
  · rw [(test_env_lengths _).2.2.2 List.length_replicate]
    decide

/-- A worker whose final broadcast has visited every slot. -/
def stopping : Chan := { Chan.reset with sesPhase := .finalBcast, ctl := .finalBcast 0 }

theorem witness_StopSteps :
    (at0 fun ch => { ch with sesPhase := .deregister, sesSlot := some 1 }).chans[0]? =
      some { Chan.reset with sesPhase := .deregister, sesSlot := some 1 } ∧
    (at0 fun _ => stopping).chans[0]? = some stopping ∧ stopping.sesPhase = .finalBcast ∧
    { (at0 fun _ => stopping) with bcasts := [{ bcast0 with caller := .stop 0, rest := [] }] }.findBcast 0 =
      some { bcast0 with caller := .stop 0, rest := [] } ∧
    stopping.ctl = .finalBcast 0 := by
  decide

/-- The encode of a final broadcast has failed on channel 2. -/
def stopFails : State :=
  { (at0 fun _ => stopping) with
    locks  := [.free, .free, .held (.bcast 0)]
    bcasts := [{ bcast0 with caller := .stop 0, stage := .rel 2 (.encFailed .unknownTag) }]
    nextBc := 1 }

theorem witness_StopSteps_encFail :
    stopFails.chans[0]? = some stopping ∧
    stopFails.findBcast 0 = some { bcast0 with caller := .stop 0, stage := .rel 2 (.encFailed .unknownTag) } ∧
    stopFails.locks[stopFails.mediumOf 2]? = some (.held (.bcast 0)) ∧
    stopFails.writePending (stopFails.mediumOf 2) = false := by
  decide

/-- R206, R230: the encode failure ends the broadcast, and stops the worker. -/
theorem test_bcast_enc_fail :
    look (exec (.lockRel (.bcast 0) 2) stopFails) (fun t => (t.out, t.bcasts, (t.chans[0]?).map (·.sesPhase))) =
      some ([.bcastDone (.stop 0) (.encFail .unknownTag)], [], some .stopped) := by
  decide

theorem witness_SessionInvariantKept : ∃ t, busy.sesInv ∧ step busy = .next t := ⟨_, witness_busy_sesInv, rfl⟩

theorem witness_WorkerTurnGoesOn : busy.lockInv ∧ busy.sesInv ∧ busy.sizeInv ∧ 2 < busy.chans.length :=
  ⟨witness_busy_lockInv, witness_busy_sesInv, witness_busy_sizeInv, by decide⟩

theorem witness_OperationsStopByName :
    channelOf (.rxSeq 3 0x00) = some 3 ∧ s0.chans[3]? = none ∧ s0.chans[2]? = some Chan.reset ∧
    s0.holds .driver 2 = false := by
  decide

theorem witness_SignalsClosed :
    ∃ t, exec (.rxCrc 0 0x6B) atCrc = .next t ∧ t.signals = [.normal] ∧ maySignal (.rxDiscard 0 0x00) = false :=
  ⟨_, rfl, rfl, rfl⟩

/-- A reset is presented. -/
def resetting : State := { busy with script := [.rst inputs0] }

theorem witness_ConfigurationKept_ResetValues :
    ∃ t ch, step resetting = .next t ∧ resetting.script = .rst inputs0 :: [] ∧ inputs0.legal resetting.config = true ∧
      resetting.chans[2]? = some busyStart ∧ t.chans[2]? = some ch ∧ (State.resetWith cfg0 inputs0).chans[2]? = some Chan.reset :=
  ⟨_, _, rfl, rfl, by decide, rfl, rfl, by decide⟩

theorem witness_ConfigurationKept_terminate :
    ∃ t ch', step { busy with script := [.terminate 0] } = .next t ∧ busy.chans[0]? = some busyRx ∧
      busyRx.sesTermReq = false ∧ t.chans[0]? = some ch' ∧ ch'.sesTermReq = true :=
  ⟨_, _, rfl, rfl, rfl, rfl, rfl⟩

theorem witness_BuffersAndSizesKept : ∃ t, busy.memInv ∧ busy.sizeInv ∧ step busy = .next t :=
  ⟨_, witness_busy_memInv, witness_busy_sizeInv, rfl⟩

theorem witness_NoIndexFault : busy.rxInv ∧ busy.txInv := ⟨witness_busy_rxInv, witness_busy_txInv⟩

theorem witness_StepRunsOperation_driver :
    (decodeWord 0xA5 [0x8F, 0x00, 0x02]).toOption = some (.lockAcq .driver 2) ∧
    driverCalls (.lockAcq .driver 2) = true ∧
    { s0 with script := [.op [0x8F, 0x00, 0x02]] }.script = .op [0x8F, 0x00, 0x02] :: [] ∧
    { s0 with script := [.broadcast .driver 7 []] }.script = .broadcast .driver 7 [] :: [] := by
  decide

/-- R228, D36: a word of pass 2, which would fail, has no step. -/
theorem witness_StepRunsOperation_passes :
    (decodeWord 0xA5 [0x92, 0x02, 0x0A, 0x00]).toOption = some (.envDiscriminate [0x0A, 0x00]) ∧
    (decodeWord 0xA5 [0x93, 0x02, 0x03, 0x22, 0x05, 0x01]).toOption = some (.envBody .timeReference [0x22, 0x05, 0x01]) ∧
    driverCalls (.envDiscriminate [0x0A, 0x00]) = true ∧ driverCalls (.envBody .timeReference [0x22, 0x05, 0x01]) = true ∧
    outs (step { s0 with script := [.op [0x93, 0x02, 0x03, 0x22, 0x05, 0x01]] }) = some [] := by
  decide

theorem witness_StepRunsOperation :
    busy.script = .txReady 1 :: [.rxByte 0 0x00, .worker 2] ∧
    State.plan { busy with script := [.rxByte 0 0x00, .worker 2] } (.txReady 1) =
      .run (.txSend 1 .ready) { busy with script := [.rxByte 0 0x00, .worker 2] } ∧
    (decodeWord 0xA5 [0x80, 0x07, 0x01]).toOption = some (.crc8Update 0x07 0x01) ∧
    selected s0 (.crc8Update 0x07 0x01) = some s0 ∧
    { busy with script := [.rxByte 0 0x00] }.script = .rxByte 0 0x00 :: [] ∧ busy.chans[0]? = some busyRx ∧
    busyRx.sesPhase = .receive ∧ busyRx.ctl = .recvRead ∧ busyRx.rxs = [] :=
  ⟨rfl, rfl, by decide, rfl, rfl, rfl, rfl, rfl, rfl⟩

theorem witness_InvariantsAtReset : cfg0.legal = true := by decide

/-- Surroundings in which the set fails. -/
def failing : Surroundings :=
  { around with
    answer := fun n q =>
      match q with
      | .set _ _ => SetOutcome.error
      | .read _ _ _ => ([] : List Byte)
      | q => around.answer n q }

theorem witness_HandlerContracts :
    ((9 : Nat) ≠ inputs0.engineId ∧ (9 : Nat) ≠ 0) ∧ inputs0.engineId = 7 ∧
    (around.answer 0 (.set 11 2) : SetOutcome) ≠ .error ∧
    (around.answer 1 (.getById 11) : Option Param) = some ⟨11, 5, 0⟩ ∧
    (failing.answer 0 (.set 11 2) : SetOutcome) = .error ∧
    (∀ m, (around.answer m .count : Nat) = 3) ∧
    (∀ m i, i < 3 → (around.answer m (.getByIndex i) : Option Param) = some ⟨11 + i, 5 + i, i⟩) ∧
    (∀ m a len, (around.answer m (.read .ram a len) : List Byte).length = len) ∧ (∀ m, around.result m = .txOk) ∧
    (failing.answer 0 (.read .ram 9 5) : List Byte) = [] ∧ 0 < cfg0.pageSize ∧
    (params0.fields.engineId .command [0x09] ≠ inputs0.engineId ∧ params0.fields.engineId .paramRequest [0x09] ≠ 0) ∧
    (handleMemoryDump cfg0 inputs0 inputs0.engineId .unknown 0 1 3).acts around 0 = [] ++ .reportError :: [] :=
  ⟨by decide, rfl, by decide, rfl, rfl, fun _ => rfl, fun _ _ _ => rfl, fun _ _ _ => List.length_replicate ..,
    fun _ => rfl, rfl, by decide, by decide, rfl⟩

end Sys2Proof.Tests
end

/-! SUPPORT. What one step can do, said once: what a stimulus plans (`planned`), and so the only operations a step runs
and the only answers it gives without one. -/

namespace Sys2Proof.Machine

/-! ## Which operations run -/

/-- The operations a step runs, each at the place that selects it, with the state it runs in (R104, R110, R111,
R281). -/
inductive Runs (s : State) : Instr → State → Prop where
  | crcUpdate (r b : Byte) : Runs s (.crc8Update r b) s
  | crcBlock (r : Byte) (buf : List Byte) : Runs s (.crc8Block r buf) s
  | frame (c : ChanId) (seq msgid : Byte) (payload : List Byte) (crc : Byte) : Runs s (.frame c seq msgid payload crc) s
  | worker {c : ChanId} {ch : Chan} {i : Instr} (hc : s.chans[c]? = some ch) (ho : workerOp s c ch = some i)
      (script : List Stim) : Runs s i { s with script := script }
  | receiver {c : ChanId} {ch : Chan} (hc : s.chans[c]? = some ch) (hp : ch.sesPhase = .receive)
      (hr : ch.ctl = .recvRead) (rxs : List Byte) (e : RxEvent) :
      Runs s (decodeRx s.config.start ch.rxState c e) (s.setChan c { ch with rxs := rxs })
  | sender {c : ChanId} {ch : Chan} {a : Agent} (hc : s.chans[c]? = some ch) (hj : ch.txJob = .send a)
      (x : SendInput) (hx : ∀ a m, x ≠ .call a m) : Runs s (.txSend c x) s
  | rawSender {c : ChanId} {ch : Chan} {a : Agent} {rest : List Byte} (hc : s.chans[c]? = some ch)
      (hj : ch.txJob = .raw a rest) (x : RawInput) (hx : ∀ a f, x ≠ .call a f) : Runs s (.txRaw c x) s
  | start (c : ChanId) : Runs s (.sesStart c .event) s
  | statusDue {c : ChanId} {ch : Chan} (hc : s.chans[c]? = some ch) (hp : ch.sesPhase = .checkStatus)
      (hr : ch.ctl = .run) : Runs s (.sesStatus c .due) s
  | statusDone {c : ChanId} {ch : Chan} (hc : s.chans[c]? = some ch) (hr : ch.ctl = .handler .status) :
      Runs s (.sesStatus c .handlerDone) s
  | dispatchDone {c : ChanId} {ch : Chan} {v : Variant} (hc : s.chans[c]? = some ch)
      (hr : ch.ctl = .handler (.dispatch v)) : Runs s (.sesDispatch c .handlerDone) s
  | reply (c : ChanId) (t : Nat) (body : List Byte) : Runs s (.sesSend c t body) s
  | broadcast {c : ChanId} {ch : Chan} (hc : s.chans[c]? = some ch) (t : Nat) (body : List Byte) :
      Runs s (.bcastSend (.call (.handler c) t body)) s
  | bcast {k : BcastId} {b : Bcast} {j : SlotId} {i : Instr} (hb : s.findBcast k = some b)
      (ho : bcastOp s b j = some i) : Runs s i s

/-- What a stimulus plans: an operation to run, or an answer of its own. A stimulus itself stops the machine only for a
channel or a medium that does not exist, or refuses. -/
inductive Planned (s : State) : Stim → Plan → Prop where
  | run {σ : Stim} {i : Instr} {t : State} (h : Runs s i t) : Planned s σ (.run i t)
  | idle {σ : Stim} (script : List Stim) : Planned s σ (.answer (.next { s with script := script }))
  | noChannel {σ : Stim} (c : ChanId) : Planned s σ (.answer (.fault (.noSuchChannel c)))
  | noMedium {σ : Stim} (m : MediumId) : Planned s σ (.answer (.fault (.noSuchMedium m)))
  | refused {σ : Stim} (r : Refusal) : Planned s σ (.answer (.refused r))
  | held {σ : Stim} {c : ChanId} {ch : Chan} (hc : s.chans[c]? = some ch) (rxs : List Byte) :
      Planned s σ (.answer (.next (s.setChan c { ch with rxs := rxs })))
  | terminate {c : ChanId} {ch : Chan} (hc : s.chans[c]? = some ch) :
      Planned s (.terminate c) (.answer (.next (s.setChan c { ch with sesTermReq := true })))
  | rst {inputs : CfgRegs} (h : inputs.legal s.config = true) :
      Planned s (.rst inputs) (.answer (.next
        { s with
          cfg    := inputs
          chans  := s.chans.map Chan.afterRst
          reg    := s.reg.map fun _ => none
          locks  := s.locks.map fun _ => .free
          bcasts := []
          nextBc := 0 }))
  | clock {σ : Stim} (t : Time) : Planned s σ (.answer (.next { s with now := t }))
  | medium {σ : Stim} (c : ChanId) {m : MediumId} {l : Lock} (hl : s.locks[m]? = some l) :
      Planned s σ (.answer (.next { s with medium := s.medium.set c m }))

theorem Planned.onChan {s : State} {σ : Stim} {c : ChanId} {f : Chan → Plan}
    (h : ∀ ch, s.chans[c]? = some ch → Planned s σ (f ch)) : Planned s σ (Plan.onChan s c f) := by
  unfold Plan.onChan
  split
  · exact h _ ‹_›
  · exact .noChannel c

theorem planned_rxInput (s : State) (σ : Stim) (c : ChanId) (again : Stim) (arrive : List Byte)
    (offer reset timeout : Bool) : Planned s σ (rxInput s c again arrive offer reset timeout) := by
  refine .onChan fun ch hc => ?_
  dsimp only
  split
  · rename_i hp
    split
    · rename_i hr
      generalize arbitrateRx .. = e
      cases e with
      | none => exact .held hc _
      | some e => exact .run (.receiver hc hp hr _ e)
    · cases ho : workerOp s c ch with
      | none => exact .idle _
      | some i => exact .run (.worker hc ho _)
  · exact .held hc _

theorem planned_txInput (s : State) (σ : Stim) (c : ChanId) {x : SendInput} {y : RawInput}
    (hx : ∀ a m, x ≠ .call a m) (hy : ∀ a f, y ≠ .call a f) : Planned s σ (txInput s c x y) := by
  refine .onChan fun ch hc => ?_
  split
  · exact .idle _
  · exact .run (.sender hc ‹_› x hx)
  · exact .run (.rawSender hc ‹_› y hy)

theorem planned_txCycle (s : State) (c : ChanId) (reset ready timeout : Bool) :
    Planned s (.txCycle c reset ready timeout) (present s (.txCycle c reset ready timeout)) := by
  unfold present
  dsimp only
  split
  · exact planned_txInput s _ _ (by simp) (by simp)
  · exact planned_txInput s _ _ (by simp) (by simp)
  · exact planned_txInput s _ _ (by simp) (by simp)
  · exact .idle _

theorem planned_statusDueInput (s : State) (σ : Stim) (c : ChanId) : Planned s σ (statusDueInput s c) := by
  refine .onChan fun ch hc => ?_
  split
  · rename_i h
    exact .run (.statusDue hc h.1 h.2)
  · exact .idle _

theorem planned_handlerDoneInput (s : State) (σ : Stim) (c : ChanId) : Planned s σ (handlerDoneInput s c) := by
  refine .onChan fun ch hc => ?_
  split
  · exact .run (.statusDone hc ‹_›)
  · exact .run (.dispatchDone hc ‹_›)
  · exact .idle _

theorem planned_broadcastInput (s : State) (σ : Stim) (caller : BcastCaller) (t : Nat) (body : List Byte) :
    Planned s σ (broadcastInput s caller t body) := by
  cases caller with
  | driver => exact .idle _
  | handler c => exact .onChan fun ch hc => .run (.broadcast hc t body)
  | stop c => exact .idle _

theorem planned_workerTurn (s : State) (σ : Stim) (c : ChanId) : Planned s σ (workerTurn s c) := by
  refine .onChan fun ch hc => ?_
  cases ho : workerOp s c ch with
  | none => exact .idle _
  | some i => exact .run (.worker hc ho s.script)

theorem planned_bcastTurn (s : State) (σ : Stim) (k : BcastId) (i : SlotId) : Planned s σ (bcastTurn s k i) := by
  unfold bcastTurn
  split
  · rename_i b hb
    cases ho : bcastOp s b i with
    | none => exact .idle _
    | some op => exact .run (.bcast hb ho)
  · exact .idle _

theorem planned_terminateInput (s : State) (c : ChanId) : Planned s (.terminate c) (.answer (terminateInput s c)) := by
  unfold terminateInput State.onChan
  split
  · exact .terminate ‹_›
  · exact .noChannel c

theorem planned_rstInput (s : State) (inputs : CfgRegs) : Planned s (.rst inputs) (.answer (rstInput s inputs)) := by
  unfold rstInput
  split
  · exact .rst ‹_›
  · exact .refused _

theorem planned_clockInput (s : State) (σ : Stim) (t : Time) : Planned s σ (.answer (clockInput s t)) := by
  unfold clockInput
  split
  · exact .refused _
  · exact .clock t

theorem planned_selectMediumInput (s : State) (σ : Stim) (c : ChanId) (m : MediumId) :
    Planned s σ (.answer (selectMediumInput s c m)) := by
  unfold selectMediumInput State.onChan
  split
  · split
    · exact .noMedium m
    · split
      · exact .medium c ‹_›
      · exact .refused _
  · exact .noChannel c

theorem planned_present (s : State) (σ : Stim) : Planned s σ (present s σ) := by
  cases σ with
  | rxByte c b => exact planned_rxInput ..
  | rxOffer c => exact planned_rxInput ..
  | rxTimeout c => exact planned_rxInput ..
  | chResetRx c => exact planned_rxInput ..
  | chResetTx c => exact planned_txInput s _ c (by simp) (by simp)
  | txReady c => exact planned_txInput s _ c (by simp) (by simp)
  | txTimeout c => exact planned_txInput s _ c (by simp) (by simp)
  | start c => exact .run (.start c)
  | terminate c => exact planned_terminateInput s c
  | statusDue c => exact planned_statusDueInput s _ c
  | reply c t body => exact .run (.reply c t body)
  | broadcast caller t body => exact planned_broadcastInput s _ caller t body
  | handlerDone c => exact planned_handlerDoneInput s _ c
  | worker c => exact planned_workerTurn s _ c
  | bcast k i => exact planned_bcastTurn s _ k i
  | rxCycle c reset byte timeout => exact planned_rxInput ..
  | txCycle c reset ready timeout => exact planned_txCycle s c reset ready timeout
  | rst inputs => exact planned_rstInput s inputs
  | clock t => exact planned_clockInput s _ t
  | selectMedium c m => exact planned_selectMediumInput s _ c m
  | op word => exact .idle _

theorem agentTrigger_ne_direct (a : Agent) : agentTrigger a ≠ .direct := by
  cases a <;> simp [agentTrigger]

theorem callerTrigger_ne_direct (caller : BcastCaller) (t : Nat) (body : List Byte) :
    callerTrigger caller t body ≠ .direct := by
  cases caller <;> simp [callerTrigger]

/-- An operation that is selected by itself is one of the CRC's or a frame (R110). -/
theorem runs_of_direct {s : State} {start : Byte} {i : Instr} (h : triggerOf start i = .direct) : Runs s i s := by
  cases i with
  | crc8Update r b => exact .crcUpdate r b
  | crc8Block r buf => exact .crcBlock r buf
  | frame c seq msgid payload crc => exact .frame c seq msgid payload crc
  | txSend c x =>
    cases x with
    | call a msgid => exact absurd h (agentTrigger_ne_direct a)
    | _ => cases h
  | txRaw c x =>
    cases x with
    | call a f => exact absurd h (agentTrigger_ne_direct a)
    | _ => cases h
  | lockAcq a m => exact absurd h (agentTrigger_ne_direct a)
  | lockRel a m => exact absurd h (agentTrigger_ne_direct a)
  | envEncode a c t body => exact absurd h (agentTrigger_ne_direct a)
  | bcastSend x =>
    cases x with
    | call caller t body => exact absurd h (callerTrigger_ne_direct caller t body)
    | _ => cases h
  | sesStart c x => cases x <;> cases h
  | sesStatus c x => cases x <;> cases h
  | sesDispatch c x => cases x <;> cases h
  | _ => cases h

theorem planned_wordInput (s : State) (word : List Byte) : Planned s (.op word) (wordInput s word) := by
  unfold wordInput
  split
  · exact .refused _
  · split
    · rename_i i _ t hs
      rcases selected_some hs with ⟨hd, rfl⟩ | ⟨σ, -, hp⟩
      · exact .run (runs_of_direct hd)
      · have h := planned_present s σ
        rw [hp] at h
        cases h with
        | run h => exact .run h
    · exact .idle _

/-- Every stimulus plans one of the cases of `Planned`. -/
theorem planned (s : State) (σ : Stim) : Planned s σ (s.plan σ) := by
  cases σ with
  | op word => exact planned_wordInput s word
  | _ => exact planned_present s _

/-- A step takes the next stimulus and carries out what it plans; without one it changes nothing. -/
theorem step_carriesOut (s : State) :
    step s = .next s ∨
    ∃ σ rest p, s.script = σ :: rest ∧ Planned { s with script := rest } σ p ∧ step s = p.carryOut := by
  unfold step
  split
  · exact .inl rfl
  · rename_i σ rest hs
    exact .inr ⟨σ, rest, _, hs, planned _ σ, rfl⟩

end Sys2Proof.Machine

/-! SUPPORT. What every operation keeps, whatever selects it: the parameters and the configuration, the sizes, a cleared
termination flag, the agreement of registry and workers, and the buffers' form; and the only ways it faults. -/

namespace Sys2Proof.Machine

/-! ## A channel -/

/-- A channel's slot is as it was, its termination flag is not newly set, and its buffers stay in form. -/
structure ChanKeeps (a b : Chan) : Prop where
  slot : b.sesSlot = a.sesSlot
  term : b.sesTermReq = true → a.sesTermReq = true
  rxBuf : Memory.ok a.rxBuf = true → Memory.ok b.rxBuf = true
  txBuf : Memory.ok a.txBuf = true → Memory.ok b.txBuf = true

theorem ChanKeeps.refl (a : Chan) : ChanKeeps a a := ⟨rfl, id, id, id⟩

theorem ChanKeeps.resume {a b : Chan} (h : ChanKeeps a b) (r : Return) : ChanKeeps a (b.resume r) := by
  obtain ⟨ctl, e⟩ := b.resume_eq r
  rw [e]
  exact ⟨h.slot, h.term, h.rxBuf, h.txBuf⟩

theorem ChanKeeps.rxContinue {a b : Chan} (h : ChanKeeps a b) : ChanKeeps a b.rxContinue := by
  obtain ⟨ctl, e⟩ := b.rxContinue_eq
  rw [e]
  exact ⟨h.slot, h.term, h.rxBuf, h.txBuf⟩

/-- A channel of which no slot, flag or buffer is written. -/
theorem ChanKeeps.of_eq {a b : Chan} (hs : b.sesSlot = a.sesSlot) (ht : b.sesTermReq = a.sesTermReq)
    (hr : b.rxBuf = a.rxBuf) (hx : b.txBuf = a.txBuf) : ChanKeeps a b :=
  ⟨hs, by rw [ht]; exact id, by rw [hr]; exact id, by rw [hx]; exact id⟩

/-! ## The invariants and the updates of the state -/

theorem State.regInv_setChan {s : State} {c : ChanId} {ch ch' : Chan} (hc : s.chans[c]? = some ch)
    (hs : ch'.sesSlot = ch.sesSlot) (h : s.regInv) : (s.setChan c ch').regInv := by
  obtain ⟨hslot, hreg⟩ := h
  refine ⟨fun d dh hd i => ?_, fun i d hd => by simpa using hreg i d hd⟩
  by_cases hdc : d = c
  · subst hdc
    rw [State.setChan_get_self hc] at hd
    cases hd
    rw [hs]
    exact hslot d ch hc i
  · rw [State.setChan_get_ne s hdc] at hd
    exact hslot d dh hd i

/-- A slot that is empty or `c`'s own is written together with the reference of `c`, which refers to no other slot: both
are set, or both are cleared (R201, R202). -/
theorem State.regInv_writeSlot {s : State} {c : ChanId} {ch ch' : Chan} {i : SlotId} {r : Option ChanId}
    (hc : s.chans[c]? = some ch) (hi : i < s.reg.length) (hown : ∀ d, s.reg[i]? = some (some d) → d = c)
    (hold : ∀ j, ch.sesSlot = some j → j = i)
    (hw : (r = some c ∧ ch'.sesSlot = some i) ∨ (r = none ∧ ch'.sesSlot = none)) (h : s.regInv) :
    ((s.setReg i r).setChan c ch').regInv := by
  obtain ⟨hslot, hreg⟩ := h
  have hcl : c < s.chans.length := (List.getElem?_eq_some_iff.mp hc).1
  refine ⟨fun d dh hd j => ?_, fun j d hd => ?_⟩
  · simp only [State.setChan_chans, State.setReg_chans, State.setChan_reg, State.setReg_reg] at hd ⊢
    by_cases hdc : d = c
    · subst hdc
      obtain rfl : ch' = dh := by simpa [hcl] using hd
      by_cases hji : j = i
      · subst hji
        rcases hw with ⟨rfl, hs⟩ | ⟨rfl, hs⟩ <;> simp [hs, hi]
      · have hj : s.reg[j]? ≠ some (some d) := fun hj => hji (hold j ((hslot d ch hc j).mpr hj))
        rcases hw with ⟨-, hs⟩ | ⟨-, hs⟩ <;> simp [hs, List.getElem?_set_ne (Ne.symm hji), hj, Ne.symm hji]
    · rw [List.getElem?_set_ne (Ne.symm hdc)] at hd
      rw [hslot d dh hd j]
      by_cases hji : j = i
      · subst hji
        have hj : s.reg[j]? ≠ some (some d) := fun hj => hdc (hown d hj)
        rw [List.getElem?_set_self hi, iff_false_left hj]
        rcases hw with ⟨rfl, -⟩ | ⟨rfl, -⟩ <;> simp [Ne.symm hdc]
      · rw [List.getElem?_set_ne (Ne.symm hji)]
  · simp only [State.setChan_chans, State.setReg_chans, State.setChan_reg, State.setReg_reg, List.length_set] at hd ⊢
    by_cases hji : j = i
    · subst hji
      rcases hw with ⟨rfl, -⟩ | ⟨rfl, -⟩
      · obtain rfl : c = d := by simpa [hi] using hd
        exact hcl
      · simp [hi] at hd
    · rw [List.getElem?_set_ne (Ne.symm hji)] at hd
      exact hreg j d hd

theorem State.memInv_setChan {s : State} {c : ChanId} {ch' : Chan} (hr : Memory.ok ch'.rxBuf = true)
    (hx : Memory.ok ch'.txBuf = true) (h : s.memInv) : (s.setChan c ch').memInv := by
  refine ⟨fun d hd => ?_, h.2⟩
  rcases List.mem_or_eq_of_mem_set hd with hd | rfl
  · exact h.1 d hd
  · exact ⟨hr, hx⟩

/-! ## A state -/

/-- What every operation keeps. -/
structure Keeps (s t : State) : Prop where
  config : t.config = s.config
  cfg : t.cfg = s.cfg
  medium : t.medium = s.medium
  chans : t.chans.length = s.chans.length
  reg : t.reg.length = s.reg.length
  locks : t.locks.length = s.locks.length
  term : ∀ (c : ChanId) (ch' : Chan), t.chans[c]? = some ch' → ch'.sesTermReq = true →
    ∃ ch, s.chans[c]? = some ch ∧ ch.sesTermReq = true
  regInv : s.regInv → t.regInv
  memInv : s.memInv → t.memInv

theorem Keeps.refl (s : State) : Keeps s s :=
  ⟨rfl, rfl, rfl, rfl, rfl, rfl, fun _ ch h ht => ⟨ch, h, ht⟩, id, id⟩

theorem Keeps.trans {s t u : State} (h : Keeps s t) (k : Keeps t u) : Keeps s u where
  config := k.config.trans h.config
  cfg := k.cfg.trans h.cfg
  medium := k.medium.trans h.medium
  chans := k.chans.trans h.chans
  reg := k.reg.trans h.reg
  locks := k.locks.trans h.locks
  term c ch' hc ht := by
    obtain ⟨ch, hc, ht⟩ := k.term c ch' hc ht
    exact h.term c ch hc ht
  regInv := k.regInv ∘ h.regInv
  memInv := k.memInv ∘ h.memInv

/-- None of it speaks of the clock, the outputs or the script. -/
theorem Keeps.around {s t : State} (h : Keeps s t) (now : Time) (out : List Output) (script : List Stim) :
    Keeps s { t with now := now, out := out, script := script } :=
  ⟨h.config, h.cfg, h.medium, h.chans, h.reg, h.locks, h.term, h.regInv, h.memInv⟩

theorem Keeps.out {s t : State} (h : Keeps s t) (out : List Output) : Keeps s { t with out := out } :=
  h.around t.now out t.script

theorem Keeps.output {s t : State} (h : Keeps s t) (o : Output) : Keeps s (t.output o) := h.out _

theorem Keeps.signal {s t : State} (h : Keeps s t) (l : Level) : Keeps s (t.signal l) := h.out _

theorem Keeps.emit {s t : State} (h : Keeps s t) (c : ChanId) (b : Byte) : Keeps s (t.emit c b) := h.out _

theorem Keeps.setLock {s t : State} (h : Keeps s t) (m : MediumId) (l : Lock) : Keeps s (t.setLock m l) :=
  ⟨h.config, h.cfg, h.medium, h.chans, h.reg, by simpa using h.locks, h.term, h.regInv, h.memInv⟩

/-- The contexts of the broadcasts change, and no frame they hold grows beyond 260 bytes (R42). -/
theorem Keeps.setBcasts {s t : State} (h : Keeps s t) {bs : List Bcast} {n : BcastId}
    (hb : ∀ b ∈ bs, ∀ f, b.frame = some f → f.length ≤ 260 ∨ ∃ b' ∈ t.bcasts, b'.frame = some f) :
    Keeps s { t with bcasts := bs, nextBc := n } where
  config := h.config
  cfg := h.cfg
  medium := h.medium
  chans := h.chans
  reg := h.reg
  locks := h.locks
  term := h.term
  regInv := h.regInv
  memInv hm := by
    obtain ⟨hbuf, hframe⟩ := h.memInv hm
    refine ⟨hbuf, fun b hbm f hf => ?_⟩
    rcases hb b hbm f hf with hl | ⟨b', hb', hf'⟩
    · exact hl
    · exact hframe b' hb' f hf'

theorem Keeps.updBcast {s t : State} (h : Keeps s t) (k : BcastId) {g : Bcast → Bcast}
    (hg : ∀ b f, (g b).frame = some f → f.length ≤ 260 ∨ b.frame = some f) : Keeps s (t.updBcast k g) := by
  refine h.setBcasts fun b hb f hf => ?_
  obtain ⟨b', hb', rfl⟩ := List.mem_map.mp hb
  split at hf
  · exact (hg b' f hf).imp_right fun e => ⟨b', hb', e⟩
  · exact .inr ⟨b', hb', hf⟩

/-- A termination flag that is set after the write of a channel was set before, where the write sets none. -/
theorem State.term_setChan {s : State} {c d : ChanId} {ch ch' dh : Chan} (hc : s.chans[c]? = some ch)
    (ht : ch'.sesTermReq = true → ch.sesTermReq = true) (hd : (s.setChan c ch').chans[d]? = some dh)
    (hdt : dh.sesTermReq = true) : ∃ dh0, s.chans[d]? = some dh0 ∧ dh0.sesTermReq = true := by
  by_cases hdc : d = c
  · subst hdc
    rw [State.setChan_get_self hc] at hd
    cases hd
    exact ⟨ch, hc, ht hdt⟩
  · rw [State.setChan_get_ne s hdc] at hd
    exact ⟨dh, hd, hdt⟩

theorem keeps_setChan {s : State} {c : ChanId} {ch ch' : Chan} (hc : s.chans[c]? = some ch) (hk : ChanKeeps ch ch') :
    Keeps s (s.setChan c ch') where
  config := rfl
  cfg := rfl
  medium := rfl
  chans := by simp
  reg := rfl
  locks := rfl
  term _ _ := State.term_setChan hc hk.term
  regInv := State.regInv_setChan hc hk.slot
  memInv hm := by
    obtain ⟨hr, hx⟩ := hm.1 ch (List.mem_of_getElem? hc)
    exact State.memInv_setChan (hk.rxBuf hr) (hk.txBuf hx) hm

theorem Keeps.updChan {s t : State} (h : Keeps s t) (c : ChanId) {f : Chan → Chan} (hf : ∀ ch, ChanKeeps ch (f ch)) :
    Keeps s (t.updChan c f) := by
  cases hc : t.chans[c]? with
  | none =>
    rw [State.updChan_none hc]
    exact h
  | some ch =>
    rw [State.updChan_some hc]
    exact h.trans (keeps_setChan hc (hf ch))

/-! ## Returning and raising -/

theorem Keeps.bcastReturn {s t : State} (h : Keeps s t) (b : Bcast) (r : Result) : Keeps s (t.bcastReturn b r) := by
  have h' (caller : BcastCaller) :
      Keeps s ({ t with bcasts := t.bcasts.filter fun b' => b'.id != b.id }.output (.bcastDone caller r)) :=
    (h.setBcasts fun b' hb' f hf => .inr ⟨b', List.mem_of_mem_filter hb', hf⟩).output _
  unfold State.bcastReturn
  cases b.caller with
  | driver => exact h' _
  | handler c =>
    refine (h' _).updChan c fun ch => ?_
    split
    · split <;> exact .of_eq rfl rfl rfl rfl
    · exact .of_eq rfl rfl rfl rfl
  | stop c =>
    refine (h' _).updChan c fun ch => ?_
    split
    · split <;> exact .of_eq rfl rfl rfl rfl
    · exact .of_eq rfl rfl rfl rfl

theorem Chan.txFrame_length (k : Config) (ch : Chan) (msgid : Byte) : (ch.txFrame k msgid).length ≤ 260 := by
  have := ch.txLen.isLt
  simp [Chan.txFrame, Chan.txPayload]
  omega

theorem Keeps.resumeBcast {s t : State} (h : Keeps s t) (b : Bcast) (r : Return) : Keeps s (t.resumeBcast b r) := by
  unfold State.resumeBcast
  split
  case h_2 c _ _ =>
    refine h.updBcast _ fun b' f hf => .inl ?_
    obtain ⟨ch, -, rfl⟩ := Option.map_eq_some_iff.mp hf
    exact ch.txFrame_length _ _
  case h_9 => exact h.bcastReturn b _
  case h_10 => exact h
  all_goals exact h.updBcast _ fun b' f hf => .inr hf

theorem Keeps.resume {s t : State} (h : Keeps s t) (a : Agent) (r : Return) : Keeps s (t.resume a r) := by
  cases a with
  | driver => exact h
  | worker c =>
    cases hc : t.chans[c]? with
    | none =>
      rw [State.resume_worker_none hc]
      exact h
    | some ch =>
      rw [State.resume_worker hc]
      exact (h.trans (keeps_setChan hc ((ChanKeeps.refl ch).resume r))).out _
  | bcast k =>
    cases hb : t.findBcast k with
    | none =>
      rw [State.resume_bcast_none hb]
      exact h
    | some b =>
      rw [State.resume_bcast hb]
      exact h.resumeBcast b r

theorem Keeps.ret {s t : State} (h : Keeps s t) (a : Agent) (r : Result) : Keeps s (t.ret a r) :=
  (h.output _).resume a _

theorem Keeps.raise {s t : State} (h : Keeps s t) (f : Failure) : Keeps s (t.raise f) := by
  refine Keeps.ret ?_ _ _
  cases f with
  | rxFail c cause => exact (h.signal .fail).updChan c fun ch => .of_eq rfl rfl rfl rfl
  | txFail c caller => exact (h.signal .fail).updChan c fun ch => .of_eq rfl rfl rfl rfl
  | encFail caller cause => exact h.signal .fail
  | bodyFail caller => exact h.signal .fail
  | startFail c => exact h

/-! ## The operations -/

/-- What an operation can answer in a state: a next state in which all is kept, a refusal, or a fault, on a buffer index
only as `RX.PAYLOAD` with a full count and as `TX.SEND` with a full index (R28, R30). -/
inductive Effect (s : State) : Instr → Answer → Prop where
  | next {i : Instr} {t : State} (h : Keeps s t) : Effect s i (.next t)
  | refused {i : Instr} (r : Refusal) : Effect s i (.refused r)
  | noChannel {i : Instr} (c : ChanId) : Effect s i (.fault (.noSuchChannel c))
  | noMedium {i : Instr} (m : MediumId) : Effect s i (.fault (.noSuchMedium m))
  | rxIndex {c : ChanId} {ch : Chan} (b : Byte) (hc : s.chans[c]? = some ch) (h : bufSize ≤ ch.rxCnt) :
      Effect s (.rxPayload c b) (.fault (.noSuchIndex c ch.rxCnt))
  | txIndex {c : ChanId} {ch : Chan} {a : Agent} (hc : s.chans[c]? = some ch) (hj : ch.txJob = .send a)
      (hp : ch.txPhase = .payload) (h : bufSize ≤ ch.txIdx) :
      Effect s (.txSend c .ready) (.fault (.noSuchIndex c ch.txIdx))

theorem Effect.onChan {s : State} {i : Instr} {c : ChanId} {f : Chan → Answer}
    (h : ∀ ch, s.chans[c]? = some ch → Effect s i (f ch)) : Effect s i (s.onChan c f) := by
  unfold State.onChan
  split
  · exact h _ ‹_›
  · exact .noChannel c

theorem Effect.onTransport {s : State} {i : Instr} {a : Agent} {c : ChanId} {f : Chan → Answer}
    (h : ∀ ch, s.chans[c]? = some ch → Effect s i (f ch)) : Effect s i (s.onTransport a c f) := by
  refine .onChan fun ch hc => ?_
  split
  · split
    · exact .refused _
    · exact h ch hc
  · exact .refused _

/-- Writing registers of a channel other than slot, flag and buffers. -/
theorem keeps_setChan_of_eq {s : State} {c : ChanId} {ch ch' : Chan} (hc : s.chans[c]? = some ch)
    (hs : ch'.sesSlot = ch.sesSlot := by rfl) (ht : ch'.sesTermReq = ch.sesTermReq := by rfl)
    (hr : ch'.rxBuf = ch.rxBuf := by rfl) (hx : ch'.txBuf = ch.txBuf := by rfl) : Keeps s (s.setChan c ch') :=
  keeps_setChan hc (.of_eq hs ht hr hx)

/-! ### Receiver -/

theorem effect_rxContinue {s : State} {i : Instr} {c : ChanId} {ch ch' : Chan} (hc : s.chans[c]? = some ch)
    (hk : ChanKeeps ch ch') : Effect s i (.next (s.setChan c ch'.rxContinue)) :=
  .next (keeps_setChan hc hk.rxContinue)

theorem effect_rxNoData (s : State) (i : Instr) (c : ChanId) : Effect s i (rxNoData c s) :=
  .onChan fun _ hc => .next ((keeps_setChan_of_eq hc).ret _ _)

theorem effect_rxMidframe (s : State) (i : Instr) (c : ChanId) : Effect s i (rxMidframe c s) :=
  .onChan fun _ _ => .next ((Keeps.refl s).raise _)

theorem effect_rxPayload (s : State) (c : ChanId) (b : Byte) : Effect s (.rxPayload c b) (execRxPayload c b s) := by
  refine .onChan fun ch hc => ?_
  split
  · rename_i hlt
    exact effect_rxContinue hc ⟨rfl, id, fun h => Memory.ok_write h hlt b, id⟩
  · rename_i hge
    exact .rxIndex b hc (Nat.le_of_not_lt hge)

theorem effect_rxCrc (s : State) (i : Instr) (c : ChanId) (b : Byte) : Effect s i (execRxCrc c b s) := by
  refine .onChan fun ch hc => ?_
  split
  · exact .next (((keeps_setChan_of_eq hc).signal _).ret _ _)
  · exact .next ((Keeps.refl s).raise _)

theorem effect_rxReceive (s : State) (i : Instr) (c : ChanId) : Effect s i (execRxReceive c s) := by
  refine .onChan fun ch hc => ?_
  split
  · exact .next ((Keeps.refl s).ret _ _)
  · exact .next (keeps_setChan_of_eq hc)

/-! ### Sender -/

/-- Emitting a byte writes neither slot, flag nor buffer. -/
theorem Chan.sendByte_keeps {k : Config} {ch ch' : Chan} {b : Byte} (h : ch.sendByte k = some (b, ch')) :
    ChanKeeps ch ch' := by
  unfold Chan.sendByte at h
  split at h <;> cases h <;> exact .of_eq rfl rfl rfl rfl

theorem effect_sendReady (s : State) (c : ChanId) : Effect s (.txSend c .ready) (sendReady c s) := by
  refine .onChan fun ch hc => ?_
  split
  · rename_i a hj
    split
    · rename_i hi
      exact .txIndex hc hj hi.1 hi.2
    · split
      · exact .next (.refl s)
      · rename_i b ch' hb
        have hk : Keeps s ((s.setChan c ch').emit c b) := (keeps_setChan hc (Chan.sendByte_keeps hb)).emit c b
        dsimp only
        split
        · exact .next (hk.ret _ _)
        · exact .next hk
  · exact .next (.refl s)

theorem effect_sendAbort (s : State) (i : Instr) (c : ChanId) : Effect s i (sendAbort c s) := by
  refine .onChan fun ch hc => ?_
  split
  · exact .next ((Keeps.refl s).raise _)
  · exact .next (.refl s)

theorem effect_txSend (s : State) (c : ChanId) (x : SendInput) : Effect s (.txSend c x) (execTxSend c x s) := by
  cases x with
  | call a msgid => exact .onTransport fun ch hc => .next ((keeps_setChan_of_eq hc).resume _ _)
  | ready => exact effect_sendReady s c
  | timeout => exact effect_sendAbort s _ c
  | chReset => exact effect_sendAbort s _ c

theorem effect_rawCall (s : State) (i : Instr) (c : ChanId) (a : Agent) (frame : List Byte) :
    Effect s i (rawCall c a frame s) := by
  refine .onTransport fun ch hc => ?_
  dsimp only
  split
  · exact .next (((keeps_setChan_of_eq hc).resume _ _).ret _ _)
  · exact .next ((keeps_setChan_of_eq hc).resume _ _)

theorem effect_rawReady (s : State) (i : Instr) (c : ChanId) : Effect s i (rawReady c s) := by
  refine .onChan fun ch hc => ?_
  split
  · dsimp only
    split
    · exact .next (((keeps_setChan_of_eq hc).emit _ _).ret _ _)
    · exact .next ((keeps_setChan_of_eq hc).emit _ _)
  · exact .next (.refl s)

theorem effect_rawAbort (s : State) (i : Instr) (c : ChanId) : Effect s i (rawAbort c s) := by
  refine .onChan fun ch hc => ?_
  split
  · exact .next ((Keeps.refl s).raise _)
  · exact .next (.refl s)

theorem effect_txRaw (s : State) (i : Instr) (c : ChanId) (x : RawInput) : Effect s i (execTxRaw c x s) := by
  cases x with
  | call a frame => exact effect_rawCall s i c a frame
  | ready => exact effect_rawReady s i c
  | timeout => exact effect_rawAbort s i c
  | chReset => exact effect_rawAbort s i c

/-! ### Locks -/

theorem effect_lockAcq (s : State) (i : Instr) (a : Agent) (m : MediumId) : Effect s i (execLockAcq a m s) := by
  unfold execLockAcq
  split
  · exact .noMedium m
  · exact .next (((Keeps.refl s).setLock _ _).resume _ _)
  · exact .next (.refl s)

theorem effect_lockRel (s : State) (i : Instr) (a : Agent) (m : MediumId) : Effect s i (execLockRel a m s) := by
  unfold execLockRel
  split
  · exact .noMedium m
  · split
    · split
      · exact .refused _
      · exact .next (((Keeps.refl s).setLock _ _).resume _ _)
    · exact .refused _

/-! ### Envelope codec -/

/-- Writing a payload that fits the send buffer, where the buffers and the broadcasts' frames are in form. -/
theorem keeps_writeTx {s : State} {c : ChanId} {ch : Chan} (hc : s.chans[c]? = some ch) {p : List Byte}
    (hp : s.memInv → p.length ≤ bufSize) :
    Keeps s (s.setChan c
      { ch with txBuf := Memory.writeN ch.txBuf 0 p, txLen := BitVec.ofNat 8 p.length }) where
  config := rfl
  cfg := rfl
  medium := rfl
  chans := by simp
  reg := rfl
  locks := rfl
  term _ _ := State.term_setChan hc id
  regInv := State.regInv_setChan hc rfl
  memInv hm := by
    obtain ⟨hr, hx⟩ := hm.1 ch (List.mem_of_getElem? hc)
    exact State.memInv_setChan hr (Memory.ok_writeN hx 0 p (by simpa using hp hm)) hm

theorem effect_envEncode (s : State) (i : Instr) (a : Agent) (c : ChanId) (t : Nat) (body : List Byte) :
    Effect s i (execEnvEncode a c t body s) := by
  refine .onTransport fun ch hc => ?_
  split
  · exact .next ((Keeps.refl s).raise _)
  · dsimp only
    split
    · exact .next ((Keeps.refl s).raise _)
    · rename_i hp
      exact .next ((keeps_writeTx hc fun _ => Nat.le_of_not_lt hp).ret _ _)

theorem effect_envBody (s : State) (i : Instr) (v : Variant) (payload : List Byte) :
    Effect s i (execEnvBody v payload s) := by
  refine .next ?_
  split
  · exact (Keeps.refl s).ret _ _
  · exact (Keeps.refl s).raise _

theorem keeps_endDispatch (ch : Chan) : ChanKeeps ch ch.endDispatch := .of_eq rfl rfl rfl rfl

theorem effect_dropSilently (s : State) (i : Instr) (c : ChanId) : Effect s i (dropSilently c s) :=
  .onChan fun ch hc => .next (keeps_setChan hc (keeps_endDispatch ch))

theorem keeps_dropBadBody (s : State) (c : ChanId) : Keeps s (dropBadBody c s) :=
  ((Keeps.refl s).raise _).updChan c keeps_endDispatch

theorem effect_routeToHandler (s : State) (i : Instr) (v : Variant) (c : ChanId) (w : BitVec 3) :
    Effect s i (routeToHandler v c w s) := by
  refine .onChan fun ch hc => .next ?_
  split
  · exact (((Keeps.refl s).ret _ _).output _).updChan c fun _ => .of_eq rfl rfl rfl rfl
  · exact keeps_dropBadBody s c

theorem effect_decodeAndDiscard (s : State) (i : Instr) (v : Variant) (c : ChanId) (w : BitVec 3) :
    Effect s i (decodeAndDiscard v c w s) := by
  refine .onChan fun ch hc => .next ?_
  split
  · exact ((Keeps.refl s).ret _ _).updChan c keeps_endDispatch
  · exact keeps_dropBadBody s c

theorem effect_envMemoryDumpRequest (s : State) (i : Instr) (c : ChanId) (w : BitVec 3) :
    Effect s i (execEnvMemoryDumpRequest c w s) := by
  unfold execEnvMemoryDumpRequest
  split
  · exact effect_routeToHandler s i _ c w
  · exact effect_dropSilently s i c

/-! ### Registry and broadcast -/

/-- A slot and the reference to it are written together, where that keeps their agreement. -/
theorem keeps_writeSlot {s : State} {c : ChanId} {ch : Chan} (hc : s.chans[c]? = some ch) {i : SlotId}
    {r : Option ChanId} {slot : Option SlotId}
    (h : s.regInv → ((s.setReg i r).setChan c { ch with sesSlot := slot }).regInv) :
    Keeps s ((s.setReg i r).setChan c { ch with sesSlot := slot }) where
  config := rfl
  cfg := rfl
  medium := rfl
  chans := by simp
  reg := by simp
  locks := rfl
  term _ _ := State.term_setChan (s := s.setReg i r) hc id
  regInv := h
  memInv hm := by
    obtain ⟨hr, hx⟩ := hm.1 ch (List.mem_of_getElem? hc)
    exact State.memInv_setChan (s := s.setReg i r) hr hx hm

/-- An empty slot is claimed by a worker that holds none (R201). -/
theorem keeps_claim {s : State} {c : ChanId} {ch : Chan} {i : SlotId} (hc : s.chans[c]? = some ch)
    (hn : ch.sesSlot = none) (hi : s.reg[i]? = some none) :
    Keeps s ((s.setReg i (some c)).setChan c { ch with sesSlot := some i }) := by
  refine keeps_writeSlot hc (State.regInv_writeSlot hc (List.getElem?_eq_some_iff.mp hi).1 ?_ ?_ (.inl ⟨rfl, rfl⟩))
  · simp [hi]
  · simp [hn]

/-- A worker clears its own slot (R202). -/
theorem keeps_clearSlot {s : State} {c : ChanId} {ch : Chan} (hc : s.chans[c]? = some ch) :
    Keeps s (clearSlot c ch s) := by
  unfold clearSlot
  split
  · rename_i i hi
    refine keeps_writeSlot hc fun h => ?_
    have hown : s.reg[i]? = some (some c) := (h.1 c ch hc i).mp hi
    refine State.regInv_writeSlot hc (List.getElem?_eq_some_iff.mp hown).1 ?_ ?_ (.inr ⟨rfl, rfl⟩) h
    · simp [hown, eq_comm]
    · simp [hi, eq_comm]
  · exact .refl s

theorem effect_regClaim (s : State) (o : Instr) (c : ChanId) (i : SlotId) : Effect s o (execRegClaim c i s) := by
  refine .onChan fun ch hc => ?_
  split
  · rename_i hn
    split
    · exact .next ((keeps_claim hc hn ‹_›).ret _ _)
    · split
      · exact .next ((Keeps.refl s).resume _ _)
      · exact .next ((Keeps.refl s).raise _)
    · exact .next ((Keeps.refl s).raise _)
  · exact .refused _

theorem Keeps.beginBcast {s t : State} (h : Keeps s t) (caller : BcastCaller) (tag : Nat) (body : List Byte) :
    Keeps s (t.beginBcast caller tag body) := by
  refine h.setBcasts fun b hb f hf => ?_
  rcases List.mem_append.mp hb with hb | hb
  · exact .inr ⟨b, hb, hf⟩
  · obtain rfl := List.mem_singleton.mp hb
    cases hf

theorem effect_bcastCall (s : State) (i : Instr) (caller : BcastCaller) (t : Nat) (body : List Byte) :
    Effect s i (bcastCall caller t body s) := by
  cases caller with
  | driver => exact .next ((Keeps.refl s).beginBcast _ _ _)
  | handler c =>
    refine .onChan fun ch hc => ?_
    split
    · exact .next ((keeps_setChan_of_eq hc).beginBcast _ _ _)
    · exact .next (.refl s)
  | stop c => exact .onChan fun ch hc => .next ((keeps_setChan_of_eq hc).beginBcast _ _ _)

theorem effect_bcastVisit (s : State) (o : Instr) (k : BcastId) (i : SlotId) : Effect s o (bcastVisit k i s) := by
  unfold bcastVisit
  split
  · exact .next (.refl s)
  · split
    · exact .next ((Keeps.refl s).updBcast k fun b f hf => .inr hf)
    · exact .next (.refl s)

theorem effect_bcastCopy (s : State) (i : Instr) (k : BcastId) : Effect s i (bcastCopy k s) := by
  unfold bcastCopy
  split
  · exact .next (.refl s)
  · rename_i b hb
    split
    · refine .onTransport fun ch hc => .next (.updBcast (keeps_writeTx hc fun hm => ?_) k fun b f hf => .inr hf)
      have hframe : (b.frame.getD []).length ≤ 260 := by
        cases hf : b.frame with
        | none => simp
        | some f => exact hm.2 b (List.mem_of_find?_eq_some hb) f hf
      simp only [List.length_dropLast, List.length_drop, bufSize]
      omega
    · exact .next (.refl s)

theorem effect_bcastFinish (s : State) (i : Instr) (k : BcastId) : Effect s i (bcastFinish k s) := by
  unfold bcastFinish
  split
  · exact .next (.refl s)
  · split
    · exact .next ((Keeps.refl s).bcastReturn _ _)
    · exact .next (.refl s)

theorem effect_bcastSend (s : State) (i : Instr) (x : BcastInput) : Effect s i (execBcastSend x s) := by
  cases x with
  | call caller t body => exact effect_bcastCall s i caller t body
  | visit k j => exact effect_bcastVisit s i k j
  | copy k => exact effect_bcastCopy s i k
  | finish k => exact effect_bcastFinish s i k

/-! ### Worker -/

theorem effect_sesStart (s : State) (i : Instr) (c : ChanId) (x : StartInput) : Effect s i (execSesStart c x s) := by
  cases x with
  | event =>
    refine .onChan fun ch hc => ?_
    split
    · exact .next (keeps_setChan_of_eq hc)
    · exact .next (.refl s)
  | init => exact .onChan fun ch hc => .next (keeps_setChan_of_eq hc)
  | arm => exact .onChan fun ch hc => .next (keeps_setChan hc ⟨rfl, (fun h => nomatch h), id, id⟩)
  | enter => exact .onChan fun ch hc => .next (keeps_setChan_of_eq hc)

theorem effect_sesStatus (s : State) (i : Instr) (c : ChanId) (x : StatusInput) :
    Effect s i (execSesStatus c x s) := by
  refine .onChan fun ch hc => ?_
  have hcall : Effect s i (.next (statusCall c ch s)) := .next ((keeps_setChan_of_eq hc).output _)
  cases x with
  | compare =>
    dsimp only
    split
    · exact hcall
    · exact .next (keeps_setChan_of_eq hc)
  | due => exact hcall
  | handlerDone => exact .next (keeps_setChan_of_eq hc)

theorem effect_sesReceive (s : State) (i : Instr) (c : ChanId) : Effect s i (execSesReceive c s) := by
  refine .onChan fun ch hc => ?_
  split
  · exact .next (keeps_setChan_of_eq hc)
  · exact .next (keeps_setChan_of_eq hc)
  · exact .next (.refl s)

theorem effect_sesDispatch (s : State) (i : Instr) (c : ChanId) (x : DispatchInput) :
    Effect s i (execSesDispatch c x s) := by
  refine .onChan fun ch hc => ?_
  cases x with
  | pass1 =>
    dsimp only
    split
    · exact .next (keeps_setChan_of_eq hc)
    · exact .next (keeps_setChan hc (keeps_endDispatch ch))
  | handlerDone => exact .next (keeps_setChan hc (keeps_endDispatch ch))

theorem effect_sesSend (s : State) (i : Instr) (c : ChanId) (t : Nat) (body : List Byte) :
    Effect s i (execSesSend c t body s) := by
  refine .onChan fun ch hc => ?_
  split
  · exact .next (keeps_setChan_of_eq hc)
  · exact .next (.refl s)

theorem effect_sesStop (s : State) (i : Instr) (c : ChanId) : Effect s i (execSesStop c s) := by
  refine .onChan fun ch hc => ?_
  split
  · exact .next ((keeps_clearSlot hc).updChan c fun _ => .of_eq rfl rfl rfl rfl)
  · exact effect_bcastCall s i _ _ _
  · exact .next (.refl s)

/-- Every operation, in every state, has one of the effects of `Effect`. -/
theorem exec_effect (i : Instr) (s : State) : Effect s i (exec i s) := by
  cases i with
  | crc8Update r b => exact .next ((Keeps.refl s).ret _ _)
  | crc8Block r buf => exact .next ((Keeps.refl s).ret _ _)
  | rxStart c => exact .onChan fun ch hc => effect_rxContinue hc (.of_eq rfl rfl rfl rfl)
  | rxDiscard c b => exact .onChan fun ch hc => effect_rxContinue hc (.refl ch)
  | rxSeq c b => exact .onChan fun ch hc => effect_rxContinue hc (.of_eq rfl rfl rfl rfl)
  | rxMsgid c b => exact .onChan fun ch hc => effect_rxContinue hc (.of_eq rfl rfl rfl rfl)
  | rxLen c b => exact .onChan fun ch hc => effect_rxContinue hc (.of_eq rfl rfl rfl rfl)
  | rxPayload c b => exact effect_rxPayload s c b
  | rxCrc c b => exact effect_rxCrc s _ c b
  | rxIdleTmo c => exact effect_rxNoData s _ c
  | rxBulkTmo c => exact effect_rxMidframe s _ c
  | rxIdleRst c => exact effect_rxNoData s _ c
  | rxBulkRst c => exact effect_rxMidframe s _ c
  | rxReceive c => exact effect_rxReceive s _ c
  | txSend c x => exact effect_txSend s c x
  | txRaw c x => exact effect_txRaw s _ c x
  | lockAcq a m => exact effect_lockAcq s _ a m
  | lockRel a m => exact effect_lockRel s _ a m
  | envEncode a c t body => exact effect_envEncode s _ a c t body
  | envDiscriminate payload => exact .next ((Keeps.refl s).ret _ _)
  | envBody v payload => exact effect_envBody s _ v payload
  | regClaim c j => exact effect_regClaim s _ c j
  | regClear c => exact .onChan fun ch hc => .next (keeps_clearSlot hc)
  | bcastSend x => exact effect_bcastSend s _ x
  | sesStart c x => exact effect_sesStart s _ c x
  | sesCheckTerm c => exact .onChan fun ch hc => .next (keeps_setChan_of_eq hc)
  | sesStatus c x => exact effect_sesStatus s _ c x
  | sesReceive c => exact effect_sesReceive s _ c
  | sesDispatch c x => exact effect_sesDispatch s _ c x
  | sesSend c t body => exact effect_sesSend s _ c t body
  | sesStop c => exact effect_sesStop s _ c
  | frame c seq msgid payload crc => exact .onChan fun ch hc => .next (keeps_setChan_of_eq hc)
  | envStatus c w => exact effect_dropSilently s _ c
  | envStatusText c w => exact effect_dropSilently s _ c
  | envTimeReference c w => exact effect_routeToHandler s _ _ c w
  | envCommand c w => exact effect_routeToHandler s _ _ c w
  | envParamRequest c w => exact effect_routeToHandler s _ _ c w
  | envParamSet c w => exact effect_routeToHandler s _ _ c w
  | envParamValue c w => exact effect_dropSilently s _ c
  | envLogRequest c w => exact effect_decodeAndDiscard s _ _ c w
  | envMemoryDumpRequest c w => exact effect_envMemoryDumpRequest s _ c w
  | envMemoryDumpPage c w => exact effect_dropSilently s _ c

/-- An operation that answers a next state keeps what every operation keeps. -/
theorem exec_keeps {i : Instr} {s t : State} (h : exec i s = .next t) : Keeps s t := by
  have he := exec_effect i s
  rw [h] at he
  cases he with
  | next hk => exact hk

end Sys2Proof.Machine

/-! SUPPORT. What a whole step can do to what every operation keeps: keep it, set a termination flag, reset the block, or
change the medium selection; and the ways a step faults. -/

namespace Sys2Proof.Machine

/-- The state an operation runs in is the step's own but for the script and the bytes a channel device holds. -/
theorem Runs.keeps {s t : State} {i : Instr} (h : Runs s i t) : Keeps s t := by
  cases h with
  | worker _ _ script => exact (Keeps.refl s).around s.now s.out script
  | receiver hc _ _ rxs e => exact keeps_setChan_of_eq hc
  | _ => exact .refl s

/-- Everything a step that goes on can have done to what every operation keeps. -/
inductive Stepped (s : State) : State → Prop where
  | keeps {t : State} (h : Keeps s t) : Stepped s t
  | terminate {c : ChanId} {ch : Chan} {rest : List Stim} (hs : s.script = .terminate c :: rest)
      (hc : s.chans[c]? = some ch) :
      Stepped s ({ s with script := rest }.setChan c { ch with sesTermReq := true })
  | rst {inputs : CfgRegs} {rest : List Stim} (hs : s.script = .rst inputs :: rest)
      (h : inputs.legal s.config = true) :
      Stepped s
        { s with
          cfg    := inputs
          chans  := s.chans.map Chan.afterRst
          reg    := s.reg.map fun _ => none
          locks  := s.locks.map fun _ => .free
          bcasts := []
          nextBc := 0
          script := rest }
  | medium (c : ChanId) {m : MediumId} {l : Lock} {rest : List Stim} (hl : s.locks[m]? = some l) :
      Stepped s { s with medium := s.medium.set c m, script := rest }

theorem step_stepped {s t : State} (h : step s = .next t) : Stepped s t := by
  rcases step_carriesOut s with hn | ⟨σ, rest, p, hs, hp, ho⟩
  · rw [hn] at h
    cases h
    exact .keeps (.refl s)
  · have hrest : Keeps s { s with script := rest } := (Keeps.refl s).around s.now s.out rest
    rw [ho] at h
    cases hp with
    | run hr => exact .keeps ((hrest.trans hr.keeps).trans (exec_keeps h))
    | idle script =>
      cases h
      exact .keeps (hrest.around s.now s.out script)
    | held hc rxs =>
      cases h
      exact .keeps (hrest.trans (keeps_setChan_of_eq hc))
    | terminate hc =>
      cases h
      exact .terminate hs hc
    | rst hl =>
      cases h
      exact .rst hs hl
    | clock now =>
      cases h
      exact .keeps ((Keeps.refl s).around now s.out rest)
    | medium c hl =>
      cases h
      exact .medium c hl
    | noChannel | noMedium | refused => cases h

/-! ## The invariants after a reset -/

@[simp] theorem Chan.afterRst_sesSlot (ch : Chan) : ch.afterRst.sesSlot = none := rfl
@[simp] theorem Chan.afterRst_sesTermReq (ch : Chan) : ch.afterRst.sesTermReq = false := rfl
@[simp] theorem Chan.afterRst_rxBuf (ch : Chan) : ch.afterRst.rxBuf = [] := rfl
@[simp] theorem Chan.afterRst_txBuf (ch : Chan) : ch.afterRst.txBuf = [] := rfl

/-- Registry and workers agree where no slot is live and no worker refers to one (R44). -/
theorem State.regInv_of_empty {s : State} (hc : ∀ ch ∈ s.chans, ch.sesSlot = none) (hr : ∀ r ∈ s.reg, r = none) :
    s.regInv := by
  have hnot (i : SlotId) (c : ChanId) : s.reg[i]? ≠ some (some c) := fun h => by
    cases hr _ (List.mem_of_getElem? h)
  refine ⟨fun c ch h i => ?_, fun i c h => absurd h (hnot i c)⟩
  simp [hc ch (List.mem_of_getElem? h), hnot i c]

/-- The buffers are in form where they are empty and no broadcast runs (R44). -/
theorem State.memInv_of_empty {s : State} (hc : ∀ ch ∈ s.chans, ch.rxBuf = [] ∧ ch.txBuf = [])
    (hb : s.bcasts = []) : s.memInv := by
  refine ⟨fun ch h => ?_, fun b h => ?_⟩
  · obtain ⟨hr, hx⟩ := hc ch h
    rw [hr, hx]
    exact ⟨Memory.ok_nil, Memory.ok_nil⟩
  · rw [hb] at h
    cases h

/-! ## Faults -/

/-- An index fault is that of a payload byte at a full count, or of a pending `TX.SEND` at a full index. -/
theorem exec_index_fault {i : Instr} {s : State} {c : ChanId} {n : Nat} (h : exec i s = .fault (.noSuchIndex c n)) :
    (∃ b ch, i = .rxPayload c b ∧ s.chans[c]? = some ch ∧ 255 ≤ ch.rxCnt) ∨
    (∃ ch a, s.chans[c]? = some ch ∧ ch.txJob = .send a ∧ ch.txPhase = .payload ∧ 255 ≤ ch.txIdx) := by
  have he := exec_effect i s
  rw [h] at he
  cases he with
  | rxIndex b hc hf => exact .inl ⟨b, _, rfl, hc, hf⟩
  | txIndex hc hj hp hf => exact .inr ⟨_, _, hc, hj, hp, hf⟩

theorem workerOp_ne_rxPayload (s : State) (c d : ChanId) (ch : Chan) (b : Byte) :
    workerOp s c ch ≠ some (.rxPayload d b) := by
  unfold workerOp
  split
  case h_1 =>
    unfold phaseOp
    split
    case h_6 => split <;> simp
    all_goals simp
  case h_11 v _ w _ => cases v <;> simp [Instr.ofVariant]
  all_goals simp

theorem bcastOp_ne_rxPayload (s : State) (k : Bcast) (j : SlotId) (d : ChanId) (b : Byte) :
    bcastOp s k j ≠ some (.rxPayload d b) := by
  unfold bcastOp
  split
  case h_1 =>
    split
    · simp
    · split <;> simp
  all_goals simp

/-- The receiver takes a byte as payload in `PAYLOAD` only (R111). -/
theorem payload_of_decodeRx {start b : Byte} {st : RxState} {c d : ChanId} {e : RxEvent}
    (h : decodeRx start st c e = .rxPayload d b) : st = .payload ∧ c = d := by
  unfold decodeRx at h
  split at h
  · split at h
    case h_5 => exact ⟨rfl, (Instr.rxPayload.inj h).1⟩
    case h_1 => split at h <;> cases h
    all_goals cases h
  · split at h <;> cases h
  · split at h <;> cases h

/-- `RX.PAYLOAD` runs on a receiver in `PAYLOAD` only (R111). -/
theorem Runs.rxPayload {s t : State} {c : ChanId} {b : Byte} (h : Runs s (.rxPayload c b) t) :
    ∃ ch, t.chans[c]? = some ch ∧ ch.rxState = .payload := by
  generalize hi : Instr.rxPayload c b = i at h
  cases h with
  | worker _ ho => exact absurd (hi ▸ ho) (workerOp_ne_rxPayload _ _ _ _ _)
  | bcast _ ho => exact absurd (hi ▸ ho) (bcastOp_ne_rxPayload _ _ _ _ _)
  | receiver hc _ _ rxs e =>
    obtain ⟨hp, rfl⟩ := payload_of_decodeRx hi.symm
    exact ⟨_, State.setChan_get_self hc _, hp⟩
  | _ => cases hi

/-- What holds of every channel whatever bytes its device holds still holds where an operation runs. -/
theorem Runs.forall_chans {P : Config → Chan → Prop} (hP : ∀ k ch rxs, P k ch → P k { ch with rxs := rxs })
    {s t : State} {i : Instr} (h : Runs s i t) (hs : ∀ ch ∈ s.chans, P s.config ch) :
    ∀ ch ∈ t.chans, P t.config ch := by
  cases h with
  | receiver hc _ _ rxs e =>
    intro ch hm
    rcases List.mem_or_eq_of_mem_set hm with hm | rfl
    · exact hs ch hm
    · exact hP _ _ rxs (hs _ (List.mem_of_getElem? hc))
  | _ => exact hs

theorem Runs.rxInv {s t : State} {i : Instr} (h : Runs s i t) (hs : s.rxInv) : t.rxInv :=
  h.forall_chans (P := fun k ch => ch.rxInv k) (fun _ _ _ h => h) hs

theorem Runs.txInv {s t : State} {i : Instr} (h : Runs s i t) (hs : s.txInv) : t.txInv :=
  h.forall_chans (P := fun k ch => ch.txInv k) (fun _ _ _ h => h) hs

/-- No operation runs on a buffer with its index at the end, where the receivers' and senders' registers agree with their
phases (R26, R162). -/
theorem Runs.no_index_fault {s t : State} {i : Instr} (h : Runs s i t) (hrx : s.rxInv) (htx : s.txInv) (c : ChanId)
    (n : Nat) : exec i t ≠ .fault (.noSuchIndex c n) := by
  intro hf
  rcases exec_index_fault hf with ⟨b, ch, rfl, hc, hfull⟩ | ⟨ch, a, hc, hj, hp, hfull⟩
  · obtain ⟨ch', hc', hp⟩ := h.rxPayload
    rw [hc] at hc'
    cases hc'
    have hinv : ch.rxInv t.config := h.rxInv hrx ch (List.mem_of_getElem? hc)
    rw [Chan.rxInv, hp] at hinv
    have := ch.rxLen.isLt
    omega
  · have hinv : ch.txInv t.config := h.txInv htx ch (List.mem_of_getElem? hc)
    rw [Chan.txInv, hj, hp] at hinv
    have := ch.txLen.isLt
    omega

/-! ## The obligations -/

/-- Settles O37: the operations keep the agreement (`Keeps.regInv`), no stimulus of its own breaks it, and a reset empties
both sides. -/
theorem registryInvariantKept : Obligations.RegistryInvariantKept := by
  intro s t hi h
  cases step_stepped h with
  | keeps hk => exact hk.regInv hi
  | terminate _ hc => exact State.regInv_setChan (s := { s with script := _ }) hc rfl hi
  | rst => exact State.regInv_of_empty (by simp) (by simp)
  | medium => exact hi

/-- Settles O54: the operations keep all of it (`Keeps`); of the stimuli's own answers a reset alone loads the
configuration, and `Terminate` alone sets a flag, its own channel's. -/
theorem configurationKept : Obligations.ConfigurationKept := by
  intro s t h
  cases step_stepped h with
  | keeps hk =>
    refine ⟨hk.config, .inl hk.cfg, fun hl => by rwa [hk.config, hk.cfg], fun c ch ch' hc hc' hf ht => ?_⟩
    obtain ⟨dh, hd, hdt⟩ := hk.term c ch' hc' ht
    rw [hc, Option.some_inj] at hd
    rw [← hd, hf] at hdt
    cases hdt
  | @terminate d dh rest hs hd =>
    refine ⟨rfl, .inl rfl, id, fun c ch ch' hc hc' hf ht => ⟨rest, ?_⟩⟩
    by_cases hcd : c = d
    · rw [hcd, hs]
    · rw [State.setChan_get_ne _ hcd, hc, Option.some_inj] at hc'
      rw [← hc', hf] at ht
      cases ht
  | rst hs hl =>
    refine ⟨rfl, .inr ⟨_, _, hs, hl, rfl⟩, fun _ => hl, fun c ch ch' hc hc' hf ht => ?_⟩
    obtain ⟨dh, -, rfl⟩ := List.mem_map.mp (List.mem_of_getElem? hc')
    cases ht
  | medium =>
    refine ⟨rfl, .inl rfl, id, fun c ch ch' hc hc' hf ht => ?_⟩
    rw [hc, Option.some_inj] at hc'
    rw [← hc', hf] at ht
    cases ht

theorem memInv_kept {s t : State} (hm : s.memInv) (h : step s = .next t) : t.memInv := by
  cases step_stepped h with
  | keeps hk => exact hk.memInv hm
  | terminate _ hc =>
    obtain ⟨hr, hx⟩ := hm.1 _ (List.mem_of_getElem? hc)
    exact State.memInv_setChan (s := { s with script := _ }) hr hx hm
  | rst => exact State.memInv_of_empty (by simp) rfl
  | medium => exact hm

theorem sizeInv_kept {s t : State} (hz : s.sizeInv) (h : step s = .next t) : t.sizeInv := by
  obtain ⟨hchans, hreg, hlocks, hmedium, hlt⟩ := hz
  cases step_stepped h with
  | keeps hk =>
    refine ⟨?_, ?_, ?_, ?_, ?_⟩
    · rw [hk.chans, hk.config, hchans]
    · rw [hk.reg, hk.config, hreg]
    · rw [hk.locks, hk.config, hlocks]
    · rw [hk.medium, hk.config, hmedium]
    · rwa [hk.medium, hk.locks]
  | terminate => exact ⟨by simpa using hchans, hreg, hlocks, hmedium, hlt⟩
  | rst => exact ⟨by simpa using hchans, by simpa using hreg, by simpa using hlocks, hmedium, by simpa using hlt⟩
  | medium c hl =>
    refine ⟨hchans, hreg, hlocks, by simpa using hmedium, fun m hm => ?_⟩
    rcases List.mem_or_eq_of_mem_set hm with hm | rfl
    · exact hlt m hm
    · exact (List.getElem?_eq_some_iff.mp hl).1

/-- Settles O55: the operations keep buffers, frames and sizes (`Keeps`); a reset empties the buffers and keeps the sizes,
and a medium that is selected has a lock. -/
theorem buffersAndSizesKept : Obligations.BuffersAndSizesKept :=
  ⟨fun _ _ => memInv_kept, fun _ _ => sizeInv_kept⟩

/-- Settles O56: the stimuli themselves touch no buffer, and the operations that do run at an index below a length. -/
theorem noIndexFault : Obligations.NoIndexFault := by
  intro s c n hrx htx h
  rcases step_carriesOut s with hn | ⟨σ, rest, p, -, hp, ho⟩
  · rw [hn] at h
    cases h
  · rw [ho] at h
    cases hp with
    | run hr => exact hr.no_index_fault hrx htx c n h
    | idle | noChannel | noMedium | refused | held | terminate | rst | clock | medium => cases h

end Sys2Proof.Machine

/-! SUPPORT. The agreement of a worker's phase, place and slot (`Chan.sesInv`): the moves that keep it, and that every
operation is selected at a place from which it makes such a move. -/

namespace Sys2Proof.Machine

/-! ## The agreement at one worker -/

/-- A worker with a slot is in its loop, is leaving it, or is at the end of its start. -/
theorem Chan.sesInv_of_slot {ch : Chan} (hs : ch.sesSlot ≠ none) (ha : ch.ctl.allows ch.sesPhase = true)
    (hf : ch.sesPhase ≠ .finalBcast) (hp : ch.sesPhase = .stopped → ch.ctl = .startEnter) : ch.sesInv :=
  ⟨ha, fun _ => hs, fun h hn => absurd (hp h) hn, fun _ => hs, fun h => absurd h hf⟩

/-- A worker without a slot is not in its loop and not at the end of its start. -/
theorem Chan.sesInv_of_noSlot {ch : Chan} (hs : ch.sesSlot = none) (ha : ch.ctl.allows ch.sesPhase = true)
    (hl : ch.sesPhase.inLoop = false) (he : ch.ctl ≠ .startEnter) : ch.sesInv :=
  ⟨ha, fun h => by simp [hl] at h, fun _ _ => hs, fun h => absurd h he, fun _ => hs⟩

theorem Chan.sesInv.allows {ch : Chan} (h : ch.sesInv) : ch.ctl.allows ch.sesPhase = true := h.1

theorem Chan.sesInv.slot_of_inLoop {ch : Chan} (h : ch.sesInv) (hp : ch.sesPhase.inLoop = true) :
    ch.sesSlot ≠ none := by
  obtain ⟨-, hloop, -⟩ := h
  exact hloop hp

theorem Chan.sesInv.slot_of_startEnter {ch : Chan} (h : ch.sesInv) (hc : ch.ctl = .startEnter) :
    ch.sesSlot ≠ none := by
  obtain ⟨-, -, -, henter, -⟩ := h
  exact henter hc

theorem Chan.sesInv.noSlot_of_finalBcast {ch : Chan} (h : ch.sesInv) (hp : ch.sesPhase = .finalBcast) :
    ch.sesSlot = none := by
  obtain ⟨-, -, -, -, hfinal⟩ := h
  exact hfinal hp

/-- The place moves to another one that the phase allows; the end of the start is neither of the two. -/
theorem Chan.sesInv.move {ch ch' : Chan} (h : ch.sesInv) (ha : ch'.ctl.allows ch.sesPhase = true)
    (hf : ch.ctl ≠ .startEnter) (ht : ch'.ctl ≠ .startEnter) (hp : ch'.sesPhase = ch.sesPhase := by rfl)
    (hs : ch'.sesSlot = ch.sesSlot := by rfl) : ch'.sesInv := by
  obtain ⟨-, hloop, hstop, -, hfinal⟩ := h
  unfold Chan.sesInv
  rw [hp, hs]
  exact ⟨ha, hloop, fun hp _ => hstop hp hf, fun h => absurd h ht, hfinal⟩

/-- A running handler and one that is blocked in a command belong to the same phase. -/
theorem WorkerCtl.allows_handler (h : HandlerKind) (k : BcastId) (p : SesPhase) :
    (WorkerCtl.handler h).allows p = (WorkerCtl.handlerBcast h k).allows p := by
  cases h <;> rfl

/-- A worker that carries on keeps the agreement, whatever it is handed but a slot. -/
theorem Chan.sesInv.resume {ch : Chan} (h : ch.sesInv) {r : Return} (hr : ∀ i, r ≠ .result (.claimOk i)) :
    (ch.resume r).sesInv := by
  have ha := h.allows
  unfold Chan.resume
  split
  case h_4 => exact absurd rfl (hr _)
  case h_14 hd _ hctl =>
    refine h.move ?_ (by simp [hctl]) (by simp)
    rw [WorkerCtl.allows_handler hd 0]
    rwa [hctl] at ha
  case h_5 hctl =>
    rw [hctl] at ha
    exact h.move rfl (by simp [hctl]) (by simp)
  case h_15 => exact h
  all_goals
    rename_i hctl
    rw [hctl] at ha
    exact h.move ha (by simp [hctl]) (by simp)

theorem Chan.sesInv.rxContinue {ch : Chan} (h : ch.sesInv) : ch.rxContinue.sesInv := by
  have ha := h.allows
  unfold Chan.rxContinue
  split
  · rename_i hctl
    rw [hctl] at ha
    exact h.move ha (by simp [hctl]) (by simp)
  · exact h

theorem Chan.sesInv.endDispatch {ch : Chan} (hs : ch.sesSlot ≠ none) : ch.endDispatch.sesInv :=
  Chan.sesInv_of_slot hs rfl (by simp [Chan.endDispatch]) (by simp [Chan.endDispatch])

/-! ## The agreement of all workers -/

theorem State.sesInv.get {s : State} (h : s.sesInv) {c : ChanId} {ch : Chan} (hc : s.chans[c]? = some ch) : ch.sesInv :=
  h ch (List.mem_of_getElem? hc)

theorem State.sesInv.setChan {s : State} (h : s.sesInv) (c : ChanId) {ch' : Chan} (hc : ch'.sesInv) :
    (s.setChan c ch').sesInv := by
  intro d hd
  rcases List.mem_or_eq_of_mem_set hd with hd | rfl
  · exact h d hd
  · exact hc

/-- Registers other than phase, slot and place are written. -/
theorem State.sesInv.setRegs {s : State} (h : s.sesInv) {c : ChanId} {ch ch' : Chan} (hc : s.chans[c]? = some ch)
    (hp : ch'.sesPhase = ch.sesPhase := by rfl) (hs : ch'.sesSlot = ch.sesSlot := by rfl)
    (hctl : ch'.ctl = ch.ctl := by rfl) : (s.setChan c ch').sesInv := by
  refine h.setChan c ?_
  have hch := h.get hc
  unfold Chan.sesInv at hch ⊢
  rwa [hp, hs, hctl]

theorem State.sesInv.updChan {s : State} (h : s.sesInv) {c : ChanId} {f : Chan → Chan}
    (hf : ∀ ch, s.chans[c]? = some ch → (f ch).sesInv) : (s.updChan c f).sesInv := by
  cases hc : s.chans[c]? with
  | none =>
    rw [State.updChan_none hc]
    exact h
  | some ch =>
    rw [State.updChan_some hc]
    exact h.setChan c (hf ch hc)

theorem State.sesInv.updRegs {s : State} (h : s.sesInv) (c : ChanId) {f : Chan → Chan}
    (hp : ∀ ch, (f ch).sesPhase = ch.sesPhase := by intro; rfl)
    (hs : ∀ ch, (f ch).sesSlot = ch.sesSlot := by intro; rfl)
    (hctl : ∀ ch, (f ch).ctl = ch.ctl := by intro; rfl) : (s.updChan c f).sesInv := by
  cases hc : s.chans[c]? with
  | none =>
    rw [State.updChan_none hc]
    exact h
  | some ch =>
    rw [State.updChan_some hc]
    exact h.setRegs hc (hp ch) (hs ch) (hctl ch)

theorem State.sesInv.bcastReturn {s : State} (h : s.sesInv) (b : Bcast) (r : Result) : (s.bcastReturn b r).sesInv := by
  have h' (caller : BcastCaller) :
      ({ s with bcasts := s.bcasts.filter fun b' => b'.id != b.id }.output (.bcastDone caller r)).sesInv := h
  unfold State.bcastReturn
  cases b.caller with
  | driver => exact h' _
  | handler c =>
    refine (h' _).updChan fun ch hc => ?_
    have hch : ch.sesInv := (h' _).get hc
    have ha := hch.allows
    split
    · rename_i hd k hctl
      split
      · rw [hctl] at ha
        exact hch.move (by rwa [WorkerCtl.allows_handler hd k]) (by simp [hctl]) (by simp)
      · exact hch
    · exact hch
  | stop c =>
    refine (h' _).updChan fun ch hc => ?_
    have hch : ch.sesInv := (h' _).get hc
    have ha := hch.allows
    split
    · rename_i k hctl
      split
      · rw [hctl] at ha
        exact Chan.sesInv_of_noSlot (hch.noSlot_of_finalBcast (by simpa [WorkerCtl.allows] using ha)) rfl rfl (by simp)
      · exact hch
    · exact hch

theorem State.sesInv.resume {s : State} (h : s.sesInv) (a : Agent) {r : Return} (hr : ∀ i, r ≠ .result (.claimOk i)) :
    (s.resume a r).sesInv := by
  cases a with
  | driver => exact h
  | worker c =>
    cases hc : s.chans[c]? with
    | none =>
      rw [State.resume_worker_none hc]
      exact h
    | some ch =>
      rw [State.resume_worker hc]
      exact h.setChan c ((h.get hc).resume hr)
  | bcast k =>
    cases hb : s.findBcast k with
    | none =>
      rw [State.resume_bcast_none hb]
      exact h
    | some b =>
      rw [State.resume_bcast hb]
      unfold State.resumeBcast
      split
      case h_9 => exact h.bcastReturn b _
      all_goals exact h

theorem State.sesInv.ret {s : State} (h : s.sesInv) (a : Agent) {r : Result} (hr : ∀ i, r ≠ .claimOk i) :
    (s.ret a r).sesInv :=
  State.sesInv.resume (s := s.output _) h a fun i e => hr i (Return.result.inj e)

theorem State.sesInv.signal {s : State} (h : s.sesInv) (l : Level) : (s.signal l).sesInv := h

theorem State.sesInv.raise {s : State} (h : s.sesInv) (f : Failure) : (s.raise f).sesInv := by
  refine State.sesInv.ret ?_ _ (by cases f <;> simp [Failure.result])
  cases f with
  | rxFail c cause => exact (h.signal .fail).updRegs c
  | txFail c caller => exact (h.signal .fail).updRegs c
  | encFail caller cause => exact h.signal .fail
  | bodyFail caller => exact h.signal .fail
  | startFail c => exact h

/-- Where a worker is after a result has been returned to it. -/
theorem State.ret_worker_get {s : State} {c : ChanId} {ch : Chan} (hc : s.chans[c]? = some ch) (r : Result) :
    (s.ret (.worker c) r).chans[c]? = some (ch.resume (.result r)) := by
  rw [State.ret_worker hc]
  exact State.setChan_get_self hc _

/-- A worker that leaves its loop clears its slot (R202, R230). -/
theorem sesInv_clearSlot {s : State} (hs : s.sesInv) (c : ChanId) {ch : Chan} (hp : ch.sesPhase = .deregister)
    (hctl : ch.ctl = .run) : (clearSlot c ch s).sesInv := by
  unfold clearSlot
  split
  · exact State.sesInv.setChan (s := s.setReg _ none) hs c
      (Chan.sesInv_of_noSlot rfl (by simp [hctl, WorkerCtl.allows]) (by simp [hp, SesPhase.inLoop]) (by simp [hctl]))
  · exact hs

/-- A worker whose slot is cleared refers to none. -/
theorem clearSlot_get {s : State} {c : ChanId} {ch : Chan} (hc : s.chans[c]? = some ch) :
    (clearSlot c ch s).chans[c]? = some { ch with sesSlot := none } := by
  unfold clearSlot
  split
  · exact State.setChan_get_self (s := s.setReg _ none) hc _
  · rename_i hn
    rw [hc, ← hn]

/-! ## Operations that run at any place -/

/-- The workers agree in the next state, if an answer is one. -/
def SesAfter (a : Answer) : Prop := ∀ t, a = .next t → t.sesInv

theorem SesAfter.next {t : State} (h : t.sesInv) : SesAfter (.next t) := fun _ e => by
  cases e
  exact h

theorem SesAfter.fault (f : Fault) : SesAfter (.fault f) := fun _ e => by cases e

theorem SesAfter.refused (r : Refusal) : SesAfter (.refused r) := fun _ e => by cases e

theorem SesAfter.at {s : State} {c : ChanId} {ch : Chan} (hc : s.chans[c]? = some ch) {f : Chan → Answer}
    (h : SesAfter (f ch)) : SesAfter (s.onChan c f) := by
  rwa [State.onChan_some hc]

theorem SesAfter.onChan {s : State} (hs : s.sesInv) {c : ChanId} {f : Chan → Answer}
    (h : ∀ ch, s.chans[c]? = some ch → ch.sesInv → SesAfter (f ch)) : SesAfter (s.onChan c f) := by
  cases hc : s.chans[c]? with
  | none =>
    rw [State.onChan_none hc]
    exact .fault _
  | some ch => exact .at hc (h ch hc (hs.get hc))

theorem SesAfter.onTransport {s : State} (hs : s.sesInv) {a : Agent} {c : ChanId} {f : Chan → Answer}
    (h : ∀ ch, s.chans[c]? = some ch → ch.sesInv → SesAfter (f ch)) : SesAfter (s.onTransport a c f) := by
  refine .onChan hs fun ch hc hch => ?_
  split
  · split
    · exact .refused _
    · exact h ch hc hch
  · exact .refused _

theorem sesAfter_rxContinue {s : State} (hs : s.sesInv) (c : ChanId) {ch : Chan} (hc : ch.sesInv) :
    SesAfter (.next (s.setChan c ch.rxContinue)) :=
  .next (hs.setChan c hc.rxContinue)

theorem sesAfter_rxNoData {s : State} (hs : s.sesInv) (c : ChanId) : SesAfter (rxNoData c s) :=
  .onChan hs fun ch hc _ =>
    .next ((hs.setRegs hc).ret _ (by simp))

theorem sesAfter_rxMidframe {s : State} (hs : s.sesInv) (c : ChanId) : SesAfter (rxMidframe c s) :=
  .onChan hs fun _ _ _ => .next (hs.raise _)

theorem sesAfter_rxPayload {s : State} (hs : s.sesInv) (c : ChanId) (b : Byte) : SesAfter (execRxPayload c b s) := by
  refine .onChan hs fun ch _ hch => ?_
  split
  · exact sesAfter_rxContinue hs c hch
  · exact .fault _

theorem sesAfter_rxCrc {s : State} (hs : s.sesInv) (c : ChanId) (b : Byte) : SesAfter (execRxCrc c b s) := by
  refine .onChan hs fun ch hc _ => ?_
  split
  · exact .next (((hs.setRegs hc).signal _).ret _ (by simp))
  · exact .next (hs.raise _)

/-- Whatever operation the receiver's state selects (R111). -/
theorem sesAfter_decodeRx {s : State} (hs : s.sesInv) (start : Byte) (st : RxState) (c : ChanId) (e : RxEvent) :
    SesAfter (exec (decodeRx start st c e) s) := by
  cases e with
  | byte b =>
    cases st with
    | waitStart =>
      unfold decodeRx
      dsimp only
      split
      · exact .onChan hs fun _ _ hch => sesAfter_rxContinue hs c hch
      · exact .onChan hs fun _ _ hch => sesAfter_rxContinue hs c hch
    | seq => exact .onChan hs fun _ _ hch => sesAfter_rxContinue hs c hch
    | msgid => exact .onChan hs fun _ _ hch => sesAfter_rxContinue hs c hch
    | len => exact .onChan hs fun _ _ hch => sesAfter_rxContinue hs c hch
    | payload => exact sesAfter_rxPayload hs c b
    | crc => exact sesAfter_rxCrc hs c b
  | timeout =>
    unfold decodeRx
    dsimp only
    split
    · exact sesAfter_rxMidframe hs c
    · exact sesAfter_rxNoData hs c
  | chReset =>
    unfold decodeRx
    dsimp only
    split
    · exact sesAfter_rxMidframe hs c
    · exact sesAfter_rxNoData hs c

theorem Chan.sendByte_sesInv {k : Config} {ch ch' : Chan} {b : Byte} (h : ch.sendByte k = some (b, ch'))
    (hi : ch.sesInv) : ch'.sesInv := by
  unfold Chan.sendByte at h
  split at h <;> cases h <;> exact hi

theorem sesAfter_sendReady {s : State} (hs : s.sesInv) (c : ChanId) : SesAfter (sendReady c s) := by
  refine .onChan hs fun ch _ hch => ?_
  split
  · split
    · exact .fault _
    · split
      · exact .next hs
      · rename_i b ch' hb
        have h : ((s.setChan c ch').emit c b).sesInv := hs.setChan c (Chan.sendByte_sesInv hb hch)
        dsimp only
        split
        · exact .next (h.ret _ (by simp))
        · exact .next h
  · exact .next hs

theorem sesAfter_sendAbort {s : State} (hs : s.sesInv) (c : ChanId) : SesAfter (sendAbort c s) := by
  refine .onChan hs fun ch _ _ => ?_
  split
  · exact .next (hs.raise _)
  · exact .next hs

theorem sesAfter_txSend {s : State} (hs : s.sesInv) (c : ChanId) (x : SendInput) : SesAfter (execTxSend c x s) := by
  cases x with
  | call a msgid =>
    exact .onTransport hs fun ch hc _ => .next ((hs.setRegs hc).resume _ (by simp))
  | ready => exact sesAfter_sendReady hs c
  | timeout => exact sesAfter_sendAbort hs c
  | chReset => exact sesAfter_sendAbort hs c

theorem sesAfter_rawCall {s : State} (hs : s.sesInv) (c : ChanId) (a : Agent) (frame : List Byte) :
    SesAfter (rawCall c a frame s) := by
  refine .onTransport hs fun ch hc _ => ?_
  dsimp only
  split
  · exact .next (((hs.setRegs hc).resume _ (by simp)).ret _ (by simp))
  · exact .next ((hs.setRegs hc).resume _ (by simp))

theorem sesAfter_rawReady {s : State} (hs : s.sesInv) (c : ChanId) : SesAfter (rawReady c s) := by
  refine .onChan hs fun ch _ hch => ?_
  split
  · rename_i a b rest _
    have h (phase : TxPhase) (job : TxJob) :
        ((s.setChan c { ch with txPhase := phase, txJob := job }).emit c b).sesInv :=
      hs.setChan c hch
    dsimp only
    split
    · exact .next ((h _ _).ret _ (by simp))
    · exact .next (h _ _)
  · exact .next hs

theorem sesAfter_rawAbort {s : State} (hs : s.sesInv) (c : ChanId) : SesAfter (rawAbort c s) := by
  refine .onChan hs fun ch _ _ => ?_
  split
  · exact .next (hs.raise _)
  · exact .next hs

theorem sesAfter_txRaw {s : State} (hs : s.sesInv) (c : ChanId) (x : RawInput) : SesAfter (execTxRaw c x s) := by
  cases x with
  | call a frame => exact sesAfter_rawCall hs c a frame
  | ready => exact sesAfter_rawReady hs c
  | timeout => exact sesAfter_rawAbort hs c
  | chReset => exact sesAfter_rawAbort hs c

theorem sesAfter_lockAcq {s : State} (hs : s.sesInv) (a : Agent) (m : MediumId) : SesAfter (execLockAcq a m s) := by
  unfold execLockAcq
  split
  · exact .fault _
  · exact .next (State.sesInv.resume (s := s.setLock m _) hs a (by simp))
  · exact .next hs

theorem sesAfter_lockRel {s : State} (hs : s.sesInv) (a : Agent) (m : MediumId) : SesAfter (execLockRel a m s) := by
  unfold execLockRel
  split
  · exact .fault _
  · split
    · split
      · exact .refused _
      · exact .next (State.sesInv.resume (s := s.setLock m _) hs a (by simp))
    · exact .refused _

theorem sesAfter_envEncode {s : State} (hs : s.sesInv) (a : Agent) (c : ChanId) (t : Nat) (body : List Byte) :
    SesAfter (execEnvEncode a c t body s) := by
  refine .onTransport hs fun ch hc _ => ?_
  split
  · exact .next (hs.raise _)
  · dsimp only
    split
    · exact .next (hs.raise _)
    · exact .next ((hs.setRegs hc).ret _ (by simp))

/-- A handler that calls is blocked in its broadcast; a call at another place is ignored. -/
theorem sesAfter_bcastCall_handler {s : State} (hs : s.sesInv) (c : ChanId) (t : Nat) (body : List Byte) :
    SesAfter (bcastCall (.handler c) t body s) := by
  refine .onChan hs fun ch _ hch => ?_
  have ha := hch.allows
  split
  · rename_i hd hctl
    rw [hctl, WorkerCtl.allows_handler hd s.nextBc] at ha
    exact .next (hs.setChan c (hch.move ha (by simp [hctl]) (by simp)))
  · exact .next hs

theorem sesAfter_bcastVisit {s : State} (hs : s.sesInv) (k : BcastId) (i : SlotId) :
    SesAfter (bcastVisit k i s) := by
  unfold bcastVisit
  split
  · exact .next hs
  · split <;> exact .next hs

theorem sesAfter_bcastCopy {s : State} (hs : s.sesInv) (k : BcastId) : SesAfter (bcastCopy k s) := by
  unfold bcastCopy
  split
  · exact .next hs
  · split
    · exact .onTransport hs fun ch hc _ => .next (hs.setRegs hc)
    · exact .next hs

theorem sesAfter_bcastFinish {s : State} (hs : s.sesInv) (k : BcastId) : SesAfter (bcastFinish k s) := by
  unfold bcastFinish
  split
  · exact .next hs
  · split
    · exact .next (hs.bcastReturn _ _)
    · exact .next hs

theorem sesAfter_startEvent {s : State} (hs : s.sesInv) (c : ChanId) : SesAfter (startEvent c s) := by
  refine .onChan hs fun ch _ hch => ?_
  split
  · rename_i h
    obtain ⟨hp, hctl⟩ := h
    exact .next (hs.setChan c (hch.move (by simp [WorkerCtl.allows, hp]) (by simp [hctl]) (by simp)))
  · exact .next hs

/-- A reply is taken on at a running handler, and ignored at another place. -/
theorem sesAfter_sesSend {s : State} (hs : s.sesInv) (c : ChanId) (t : Nat) (body : List Byte) :
    SesAfter (execSesSend c t body s) := by
  refine .onChan hs fun ch _ hch => ?_
  have ha := hch.allows
  split
  · rename_i hd hctl
    rw [hctl, WorkerCtl.allows_handler hd 0] at ha
    exact .next (hs.setChan c (hch.move ha (by simp [hctl]) (by simp)))
  · exact .next hs

theorem sesAfter_frame {s : State} (hs : s.sesInv) (c : ChanId) (seq msgid : Byte) (payload : List Byte) (crc : Byte) :
    SesAfter (execFrame c seq msgid payload crc s) :=
  .onChan hs fun _ hc _ => .next (hs.setRegs hc)

/-! ## Operations selected by the worker's place -/

section AtPlace

variable {s : State} {c : ChanId} {ch : Chan} (hs : s.sesInv) (hc : s.chans[c]? = some ch)
include hs hc

theorem sesAfter_startInit (hctl : ch.ctl = .startInit) : SesAfter (startInit c s) := by
  have hch := hs.get hc
  have ha := hch.allows
  rw [hctl] at ha
  exact .at hc (.next (hs.setChan c (hch.move ha (by simp [hctl]) (by simp))))

theorem sesAfter_startArm (hctl : ch.ctl = .startArm) : SesAfter (startArm c s) := by
  have hch := hs.get hc
  have ha := hch.allows
  rw [hctl] at ha
  exact .at hc (.next (hs.setChan c (hch.move ha (by simp [hctl]) (by simp))))

/-- The worker enters its loop with the slot it has claimed. -/
theorem sesAfter_startEnter (hctl : ch.ctl = .startEnter) : SesAfter (startEnter c s) := by
  have hslot : ch.sesSlot ≠ none := (hs.get hc).slot_of_startEnter hctl
  exact .at hc (.next (hs.setChan c (Chan.sesInv_of_slot hslot rfl (by simp) (by simp))))

/-- The worker holds the slot it claims, and is at the end of its start. -/
theorem sesAfter_regClaim {i j : SlotId} (hctl : ch.ctl = .startClaim i) : SesAfter (execRegClaim c j s) := by
  have ha := (hs.get hc).allows
  rw [hctl] at ha
  have hp : ch.sesPhase = .stopped := by simpa [WorkerCtl.allows] using ha
  refine .at hc ?_
  split
  · split
    · refine .next ?_
      have hc' : ((s.setReg j (some c)).setChan c { ch with sesSlot := some j }).chans[c]? = _ :=
        State.setChan_get_self hc _
      rw [State.ret_worker hc']
      have h : (Chan.resume { ch with sesSlot := some j } (.result (.claimOk j))).sesInv := by
        simp only [Chan.resume, hctl]
        exact Chan.sesInv_of_slot (by simp) (by simp [WorkerCtl.allows, hp]) (by simp [hp]) (by simp)
      rw [State.setChan_setChan]
      exact State.sesInv.setChan (s := s.setReg j (some c)) hs c h
    · split
      · exact .next (hs.resume _ (by simp))
      · exact .next (hs.raise _)
    · exact .next (hs.raise _)
  · exact .refused _

theorem sesAfter_rxReceive (hctl : ch.ctl = .recvTop) : SesAfter (execRxReceive c s) := by
  have hch := hs.get hc
  have ha := hch.allows
  rw [hctl] at ha
  refine .at hc ?_
  split
  · exact .next (hs.ret _ (by simp))
  · exact .next (hs.setChan c (hch.move ha (by simp [hctl]) (by simp)))

/-- A worker's loop goes on with its slot. -/
theorem sesAfter_loop {ch' : Chan} (hp : ch.sesPhase.inLoop = true) (hslot : ch'.sesSlot = ch.sesSlot)
    (ha : ch'.ctl.allows ch'.sesPhase = true) (hf : ch'.sesPhase ≠ .finalBcast) (hst : ch'.sesPhase ≠ .stopped) :
    SesAfter (.next (s.setChan c ch')) := by
  have hs' : ch'.sesSlot ≠ none := by
    rw [hslot]
    exact (hs.get hc).slot_of_inLoop hp
  exact .next (hs.setChan c (Chan.sesInv_of_slot hs' ha hf fun h => absurd h hst))

theorem sesAfter_checkTerm (hp : ch.sesPhase = .checkTerm) (hctl : ch.ctl = .run) :
    SesAfter (execSesCheckTerm c s) := by
  refine .at hc (sesAfter_loop hs hc (by simp [hp, SesPhase.inLoop]) rfl ?_ ?_ ?_)
  · simp [hctl, WorkerCtl.allows]
  · dsimp only; split <;> simp
  · dsimp only; split <;> simp

theorem sesAfter_statusCall (hp : ch.sesPhase = .checkStatus) (hctl : ch.ctl = .run) :
    SesAfter (.next (statusCall c ch s)) :=
  .next (State.sesInv.setChan hs c ((hs.get hc).move (by simp [WorkerCtl.allows, hp]) (by simp [hctl]) (by simp)))

theorem sesAfter_statusCompare (hp : ch.sesPhase = .checkStatus) (hctl : ch.ctl = .run) :
    SesAfter (execSesStatus c .compare s) := by
  refine .at hc ?_
  dsimp only
  split
  · exact sesAfter_statusCall hs hc hp hctl
  · exact sesAfter_loop hs hc (by simp [hp, SesPhase.inLoop]) rfl (by simp [hctl, WorkerCtl.allows]) (by simp) (by simp)

theorem sesAfter_statusDue (hp : ch.sesPhase = .checkStatus) (hctl : ch.ctl = .run) :
    SesAfter (execSesStatus c .due s) :=
  .at hc (sesAfter_statusCall hs hc hp hctl)

theorem sesAfter_statusDone (hctl : ch.ctl = .handler .status) : SesAfter (execSesStatus c .handlerDone s) := by
  have ha := (hs.get hc).allows
  rw [hctl] at ha
  have hp : ch.sesPhase = .checkStatus := by simpa [WorkerCtl.allows] using ha
  exact .at hc (sesAfter_loop hs hc (by simp [hp, SesPhase.inLoop]) rfl rfl (by simp) (by simp))

/-- The worker calls its receive. -/
theorem sesAfter_receiveCall (hp : ch.sesPhase = .receive) (hctl : ch.ctl = .run) :
    SesAfter (execSesReceive c s) := by
  refine .at hc ?_
  simp only [hctl]
  exact .next (hs.setChan c ((hs.get hc).move (by simp [WorkerCtl.allows, hp]) (by simp [hctl]) (by simp)))

/-- The worker takes its receive's result. -/
theorem sesAfter_receiveDone {r : Result} (hctl : ch.ctl = .recvDone r) : SesAfter (execSesReceive c s) := by
  have ha := (hs.get hc).allows
  rw [hctl] at ha
  have hp : ch.sesPhase = .receive := by simpa [WorkerCtl.allows] using ha
  refine .at hc ?_
  simp only [hctl]
  refine sesAfter_loop hs hc (by simp [hp, SesPhase.inLoop]) rfl rfl ?_ ?_
  · cases r <;> simp [phaseAfterReceive]
  · cases r <;> simp [phaseAfterReceive]

theorem sesAfter_regClear (hp : ch.sesPhase = .deregister) (hctl : ch.ctl = .run) : SesAfter (execRegClear c s) :=
  .at hc (.next (sesInv_clearSlot hs c hp hctl))

theorem sesAfter_stop_deregister (hp : ch.sesPhase = .deregister) (hctl : ch.ctl = .run) :
    SesAfter (execSesStop c s) := by
  refine .at hc ?_
  simp only [hp]
  refine .next ((sesInv_clearSlot hs c hp hctl).updChan fun dh hd => ?_)
  rw [clearSlot_get hc, Option.some_inj] at hd
  rw [← hd]
  exact Chan.sesInv_of_noSlot rfl (by simp [hctl, WorkerCtl.allows]) rfl (by simp [hctl])

theorem sesAfter_stop_finalBcast (hp : ch.sesPhase = .finalBcast) (hctl : ch.ctl = .run) :
    SesAfter (execSesStop c s) := by
  refine .at hc ?_
  simp only [hp]
  exact .at hc (.next (State.sesInv.setChan hs c
    ((hs.get hc).move (by simp [WorkerCtl.allows, hp]) (by simp [hctl]) (by simp))))

end AtPlace

/-! ## Operations of the dispatch of a message -/

section InDispatch

variable {s : State} {c : ChanId} {ch : Chan} (hs : s.sesInv) (hc : s.chans[c]? = some ch)
  (hp : ch.sesPhase = .dispatch)
include hs hc hp

theorem sesAfter_endDispatch : SesAfter (.next (s.setChan c ch.endDispatch)) :=
  sesAfter_loop hs hc (by simp [hp, SesPhase.inLoop]) rfl rfl (by simp [Chan.endDispatch]) (by simp [Chan.endDispatch])

theorem sesAfter_pass1 (hctl : ch.ctl = .run) : SesAfter (execSesDispatch c .pass1 s) := by
  refine .at hc ?_
  dsimp only
  split
  · exact .next (hs.setChan c ((hs.get hc).move (by simp [WorkerCtl.allows, hp]) (by simp [hctl]) (by simp)))
  · exact sesAfter_endDispatch hs hc hp

theorem sesAfter_dispatchDone : SesAfter (execSesDispatch c .handlerDone s) :=
  .at hc (sesAfter_endDispatch hs hc hp)

theorem sesAfter_dropSilently : SesAfter (dropSilently c s) := .at hc (sesAfter_endDispatch hs hc hp)

/-- The worker still holds its slot when pass 2 has returned its result. -/
theorem sesInv_ret_updChan {r : Result} (hr : ∀ i, r ≠ .claimOk i) {t : State}
    (ht : t.chans = (s.ret (.worker c) r).chans) {f : Chan → Chan}
    (hf : ∀ dh : Chan, dh.sesSlot ≠ none → dh.sesPhase = .dispatch → (f dh).sesInv) :
    (t.updChan c f).sesInv := by
  have hret : (s.ret (.worker c) r).sesInv := hs.ret _ hr
  have hst : t.sesInv := by
    unfold State.sesInv
    rwa [ht]
  refine hst.updChan fun dh hd => ?_
  rw [ht, State.ret_worker_get hc, Option.some_inj] at hd
  have hslot : ch.sesSlot ≠ none := (hs.get hc).slot_of_inLoop (by simp [hp, SesPhase.inLoop])
  rw [← hd]
  exact hf _ (by simpa using hslot) (by simpa using hp)

theorem sesInv_dropBadBody : (dropBadBody c s).sesInv :=
  sesInv_ret_updChan (s := s.signal .fail) hs hc hp (by simp [Failure.result]) rfl fun _ hd _ => .endDispatch hd

theorem sesAfter_routeToHandler (v : Variant) (w : BitVec 3) : SesAfter (routeToHandler v c w s) := by
  refine .at hc (.next ?_)
  split
  · rename_i x _
    refine sesInv_ret_updChan (t := (s.ret _ _).output _) (r := .bodyOk v x) hs hc hp (by simp) rfl fun dh hd hdp => ?_
    exact Chan.sesInv_of_slot hd (by simp [WorkerCtl.allows, hdp]) (by simp [hdp]) (by simp [hdp])
  · exact sesInv_dropBadBody hs hc hp

theorem sesAfter_decodeAndDiscard (v : Variant) (w : BitVec 3) : SesAfter (decodeAndDiscard v c w s) := by
  refine .at hc (.next ?_)
  split
  · exact sesInv_ret_updChan hs hc hp (by simp) rfl fun _ hd _ => .endDispatch hd
  · exact sesInv_dropBadBody hs hc hp

theorem sesAfter_memoryDumpRequest (w : BitVec 3) : SesAfter (execEnvMemoryDumpRequest c w s) := by
  unfold execEnvMemoryDumpRequest
  split
  · exact sesAfter_routeToHandler hs hc hp _ w
  · exact sesAfter_dropSilently hs hc hp

/-- Every row of the dispatch table (R227). -/
theorem sesAfter_ofVariant (v : Variant) (w : BitVec 3) : SesAfter (exec (Instr.ofVariant v c w) s) := by
  cases v with
  | status => exact sesAfter_dropSilently hs hc hp
  | statusText => exact sesAfter_dropSilently hs hc hp
  | timeReference => exact sesAfter_routeToHandler hs hc hp _ w
  | command => exact sesAfter_routeToHandler hs hc hp _ w
  | paramRequest => exact sesAfter_routeToHandler hs hc hp _ w
  | paramSet => exact sesAfter_routeToHandler hs hc hp _ w
  | paramValue => exact sesAfter_dropSilently hs hc hp
  | logRequest => exact sesAfter_decodeAndDiscard hs hc hp _ w
  | memoryDumpRequest => exact sesAfter_memoryDumpRequest hs hc hp w
  | memoryDumpPage => exact sesAfter_dropSilently hs hc hp

end InDispatch

/-! ## Every selected operation -/

section Selected

variable {s : State} {c : ChanId} {ch : Chan} (hs : s.sesInv) (hc : s.chans[c]? = some ch)
include hs hc

/-- The operation a worker's phase selects (R220). -/
theorem sesAfter_phaseOp (hctl : ch.ctl = .run) {i : Instr} (ho : phaseOp c ch = some i) : SesAfter (exec i s) := by
  unfold phaseOp at ho
  split at ho
  case h_1 => cases ho
  case h_2 hp => cases ho; exact sesAfter_checkTerm hs hc hp hctl
  case h_3 hp => cases ho; exact sesAfter_statusCompare hs hc hp hctl
  case h_4 hp => cases ho; exact sesAfter_receiveCall hs hc hp hctl
  case h_5 hp => cases ho; exact sesAfter_pass1 hs hc hp hctl
  case h_6 hp =>
    split at ho
    · cases ho; exact sesAfter_regClear hs hc hp hctl
    · cases ho; exact sesAfter_stop_deregister hs hc hp hctl
  case h_7 hp => cases ho; exact sesAfter_stop_finalBcast hs hc hp hctl

/-- The operation a worker's place selects (R142, R221, R226, R229, R230). -/
theorem sesAfter_workerOp {s0 : State} {i : Instr} (ho : workerOp s0 c ch = some i) : SesAfter (exec i s) := by
  have ha := (hs.get hc).allows
  unfold workerOp at ho
  split at ho
  case h_1 hctl => exact sesAfter_phaseOp hs hc hctl ho
  case h_2 => cases ho; exact sesAfter_lockAcq hs _ _
  case h_3 hctl => cases ho; exact sesAfter_startInit hs hc hctl
  case h_4 => cases ho; exact sesAfter_lockRel hs _ _
  case h_5 hctl => cases ho; exact sesAfter_startArm hs hc hctl
  case h_6 hctl => cases ho; exact sesAfter_regClaim hs hc hctl
  case h_7 hctl => cases ho; exact sesAfter_startEnter hs hc hctl
  case h_8 hctl => cases ho; exact sesAfter_rxReceive hs hc hctl
  case h_9 => cases ho
  case h_10 hctl => cases ho; exact sesAfter_receiveDone hs hc hctl
  case h_11 v off w hctl =>
    cases ho
    rw [hctl] at ha
    exact sesAfter_ofVariant hs hc (by simpa [WorkerCtl.allows] using ha) v w
  case h_12 => cases ho
  case h_13 => cases ho; exact sesAfter_lockAcq hs _ _
  case h_14 => cases ho; exact sesAfter_envEncode hs _ _ _ _
  case h_15 => cases ho; exact sesAfter_txSend hs _ (.call _ _)
  case h_16 => cases ho
  case h_17 => cases ho; exact sesAfter_lockRel hs _ _
  case h_18 => cases ho
  case h_19 => cases ho

end Selected

/-- The operation a broadcast's place selects (R204 to R206, R209). -/
theorem sesAfter_bcastOp {s s0 : State} (hs : s.sesInv) {b : Bcast} {j : SlotId} {i : Instr}
    (ho : bcastOp s0 b j = some i) : SesAfter (exec i s) := by
  unfold bcastOp at ho
  split at ho
  case h_1 =>
    split at ho
    · cases ho; exact sesAfter_bcastFinish hs _
    · split at ho
      · cases ho; exact sesAfter_bcastVisit hs _ _
      · cases ho
  case h_2 => cases ho; exact sesAfter_lockAcq hs _ _
  case h_3 => cases ho; exact sesAfter_envEncode hs _ _ _ _
  case h_4 => cases ho; exact sesAfter_bcastCopy hs _
  case h_5 => cases ho; exact sesAfter_txSend hs _ (.call _ _)
  case h_6 => cases ho; exact sesAfter_txRaw hs _ (.call _ _)
  case h_7 => cases ho
  case h_8 => cases ho; exact sesAfter_lockRel hs _ _

/-- Every operation that a step runs keeps the agreement at the place that selects it. -/
theorem Runs.sesAfter {s t : State} {i : Instr} (h : Runs s i t) (hs : s.sesInv) : SesAfter (exec i t) := by
  have ht : t.sesInv := h.forall_chans (P := fun _ ch => ch.sesInv) (fun _ _ _ h => h) hs
  cases h with
  | crcUpdate r b => exact .next (hs.ret _ (by simp))
  | crcBlock r buf => exact .next (hs.ret _ (by simp))
  | frame c seq msgid payload crc => exact sesAfter_frame hs c seq msgid payload crc
  | worker hc ho script => exact sesAfter_workerOp ht hc ho
  | receiver hc hp hr rxs e => exact sesAfter_decodeRx ht _ _ _ e
  | sender hc hj x hx => exact sesAfter_txSend hs _ x
  | rawSender hc hj x hx => exact sesAfter_txRaw hs _ x
  | start c => exact sesAfter_startEvent hs c
  | statusDue hc hp hr => exact sesAfter_statusDue hs hc hp hr
  | statusDone hc hr => exact sesAfter_statusDone hs hc hr
  | dispatchDone hc hr =>
    have ha := (hs.get hc).allows
    rw [hr] at ha
    exact sesAfter_dispatchDone hs hc (by simpa [WorkerCtl.allows] using ha)
  | reply c tag body => exact sesAfter_sesSend hs c tag body
  | broadcast hc tag body => exact sesAfter_bcastCall_handler hs _ tag body
  | bcast hb ho => exact sesAfter_bcastOp hs ho

theorem Chan.afterRst_sesInv (ch : Chan) : ch.afterRst.sesInv :=
  Chan.sesInv_of_noSlot rfl rfl rfl (by simp [Chan.afterRst, Chan.reset])

/-- Settles O49: every operation that runs is selected at a place from which it keeps the agreement (`Runs.sesAfter`); the
stimuli's own answers move no place but a reset's, which stops every worker. -/
theorem sessionInvariantKept : Obligations.SessionInvariantKept := by
  intro s t hs h
  rcases step_carriesOut s with hn | ⟨σ, rest, p, -, hp, ho⟩
  · rw [hn] at h
    cases h
    exact hs
  · rw [ho] at h
    have hrest : { s with script := rest }.sesInv := hs
    cases hp with
    | run hr => exact hr.sesAfter hrest t h
    | idle script => cases h; exact hs
    | held hc rxs => cases h; exact hrest.setRegs hc
    | terminate hc => cases h; exact hrest.setRegs hc
    | rst hl =>
      cases h
      intro ch hm
      obtain ⟨dh, -, rfl⟩ := List.mem_map.mp hm
      exact dh.afterRst_sesInv
    | clock now => cases h; exact hs
    | medium c hl => cases h; exact hs
    | noChannel | noMedium | refused => cases h

end Sys2Proof.Machine

/-! SUPPORT. Where operations stop, and what a reset gives. -/

namespace Sys2Proof.Machine

/-! ## Stops -/

/-- An operation of a channel that does not exist faults with that name (R20). -/
theorem exec_noSuchChannel {i : Instr} {s : State} {c : ChanId} (hi : channelOf i = some c) (hn : s.chans[c]? = none) :
    exec i s = .fault (.noSuchChannel c) := by
  have stop (f : Chan → Answer) : s.onChan c f = .fault (.noSuchChannel c) := State.onChan_none hn f
  cases i with
  | crc8Update | crc8Block | lockAcq | lockRel | envDiscriminate | envBody | bcastSend => cases hi
  | txSend d x => cases hi; cases x <;> exact stop _
  | txRaw d x => cases hi; cases x <;> exact stop _
  | sesStart d x => cases hi; cases x <;> exact stop _
  | envMemoryDumpRequest d w =>
    cases hi
    change execEnvMemoryDumpRequest c w s = _
    unfold execEnvMemoryDumpRequest
    split <;> exact stop _
  | _ => cases hi; exact stop _

/-- The transport is refused to an agent that does not hold the lock of the channel's medium (R71). -/
theorem State.onTransport_refused {s : State} {a : Agent} {c : ChanId} {ch : Chan} (hc : s.chans[c]? = some ch)
    (ha : s.holds a c = false) (f : Chan → Answer) : s.onTransport a c f = .refused (.lockNotHeld a c) := by
  rw [State.onTransport, State.onChan_some hc, ha]
  rfl

/-- Settles O52: every operation of a channel begins by looking the channel up, and the three of the transport go on by
asking for the lock. -/
theorem operationsStopByName : Obligations.OperationsStopByName :=
  ⟨fun _ _ _ hi hn => exec_noSuchChannel hi hn, fun _ _ _ _ hc ha =>
    ⟨fun _ => State.onTransport_refused hc ha _, fun _ => State.onTransport_refused hc ha _,
      fun _ _ => State.onTransport_refused hc ha _⟩⟩

/-! ## Reset -/

theorem resetWith_chan {k : Config} {inputs : CfgRegs} {ch : Chan} (h : ch ∈ (State.resetWith k inputs).chans) :
    ch = Chan.reset := List.eq_of_mem_replicate h

theorem resetWith_reg {k : Config} {inputs : CfgRegs} {r : Option ChanId} (h : r ∈ (State.resetWith k inputs).reg) :
    r = none := List.eq_of_mem_replicate h

theorem resetWith_lock {k : Config} {inputs : CfgRegs} {l : Lock} (h : l ∈ (State.resetWith k inputs).locks) :
    l = .free := List.eq_of_mem_replicate h

/-- What a later `rst` with legal inputs leaves (R310, R311; log entry 23). -/
theorem step_rst {s : State} {inputs : CfgRegs} {rest : List Stim} (hs : s.script = .rst inputs :: rest)
    (hl : inputs.legal s.config = true) :
    step s = .next
      { s with
        cfg    := inputs
        chans  := s.chans.map Chan.afterRst
        reg    := s.reg.map fun _ => none
        locks  := s.locks.map fun _ => .free
        bcasts := []
        nextBc := 0
        script := rest } := by
  simp [step, hs, State.plan, present, rstInput, hl, Plan.carryOut]

/-- Settles O58: the first reset fills every list with one value (`resetWith_chan` and its like), a later one maps every
element to it (`step_rst`), and the ports of that cycle are `State.rstPorts`. -/
theorem resetValues : Obligations.ResetValues := by
  refine ⟨fun k inputs c ch hc => ?_, fun s inputs rest hs hl => ⟨_, step_rst hs hl, ?_⟩⟩
  · obtain rfl := resetWith_chan (List.mem_of_getElem? hc)
    exact ⟨rfl, rfl, rfl, rfl, rfl, rfl, rfl, fun _ => resetWith_reg, fun _ => resetWith_lock⟩
  · rw [outPorts_rst hs]
    refine ⟨rfl, rfl, rfl, by simp, rfl, rfl, by simp [State.rstPorts], by simp [State.rstPorts], by simp,
      by simp, by simp, fun c ch hc => ⟨ch.afterRst, by simp [hc], rfl, rfl, rfl, rfl, rfl, rfl, rfl, afterRst_levels ch⟩⟩

/-! ## The invariants at reset -/

/-- Locks and agents agree where every lock is free, no worker is inside a critical section, no write is pending and no
broadcast runs. -/
theorem State.lockInv_of_free {s : State} (hl : ∀ l ∈ s.locks, l = .free)
    (hc : ∀ ch ∈ s.chans, ch.ctl.holdsLock = false ∧ ch.txJob = .none) (hb : s.bcasts = []) : s.lockInv := by
  have hfree (m : MediumId) (a : Agent) : s.locks[m]? ≠ some (.held a) := fun h => by
    cases hl _ (List.mem_of_getElem? h)
  have hplace {c : ChanId} {ch : Chan} (h : s.chans[c]? = some ch) : ch.ctl.holdsLock = false ∧ ch.txJob = .none :=
    hc ch (List.mem_of_getElem? h)
  have hcaller {c : ChanId} {ch : Chan} (h : s.chans[c]? = some ch) (a : Agent) : ch.txJob.caller ≠ some a := by
    simp [(hplace h).2, TxJob.caller]
  constructor
  case worker => exact fun c ch h ht => by simp [(hplace h).1] at ht
  case bcast => simp [hb]
  case ofWorker => exact fun m c h => absurd h (hfree m _)
  case ofBcast => exact fun m k h => absurd h (hfree m _)
  case job => exact fun c ch a h hj => absurd hj (hcaller h a)
  case jobWorker => exact fun c ch d h hj => absurd hj (hcaller h _)
  case jobBcast => exact fun c ch k h hj => absurd hj (hcaller h _)
  case jobs => exact fun c d ch dh h _ hj => absurd (hplace h).2 hj
  case fresh => simp [hb]

theorem resetWith_rxInv (k : Config) (inputs : CfgRegs) : (State.resetWith k inputs).rxInv := by
  intro ch h
  rw [resetWith_chan h]
  trivial

theorem resetWith_txInv (k : Config) (inputs : CfgRegs) : (State.resetWith k inputs).txInv := by
  intro ch h
  rw [resetWith_chan h]
  rfl

theorem resetWith_regInv (k : Config) (inputs : CfgRegs) : (State.resetWith k inputs).regInv :=
  State.regInv_of_empty (fun ch h => by rw [resetWith_chan h]; rfl) fun _ => resetWith_reg

theorem resetWith_sesInv (k : Config) (inputs : CfgRegs) : (State.resetWith k inputs).sesInv := by
  intro ch h
  rw [resetWith_chan h]
  exact Chan.sesInv_of_noSlot rfl rfl rfl (by simp [Chan.reset])

theorem resetWith_lockInv (k : Config) (inputs : CfgRegs) : (State.resetWith k inputs).lockInv :=
  State.lockInv_of_free (fun _ => resetWith_lock) (fun ch h => by rw [resetWith_chan h]; exact ⟨rfl, rfl⟩) rfl

theorem resetWith_driverIdle (k : Config) (inputs : CfgRegs) : (State.resetWith k inputs).driverIdle := by
  refine ⟨fun l h => ?_, fun ch h => ?_, fun b h => ?_⟩
  · simp [resetWith_lock h]
  · simp [resetWith_chan h, Chan.reset, TxJob.caller]
  · cases h

theorem resetWith_memInv (k : Config) (inputs : CfgRegs) : (State.resetWith k inputs).memInv :=
  State.memInv_of_empty (fun ch h => by rw [resetWith_chan h]; exact ⟨rfl, rfl⟩) rfl

/-- Legal parameters list a medium with a lock for each channel (R9, R39). -/
theorem Config.medium_of_legal {k : Config} (h : k.legal = true) :
    k.medium.length = k.nChan ∧ ∀ m ∈ k.medium, m < k.nMedia := by
  simp only [Config.legal, Bool.and_eq_true, beq_iff_eq, List.all_eq_true, decide_eq_true_eq] at h
  obtain ⟨⟨-, hlen⟩, hlt⟩ := h
  exact ⟨hlen, hlt⟩

theorem resetWith_sizeInv {k : Config} (h : k.legal = true) (inputs : CfgRegs) : (State.resetWith k inputs).sizeInv := by
  obtain ⟨hlen, hlt⟩ := Config.medium_of_legal h
  exact ⟨by simp [State.resetWith], by simp [State.resetWith], by simp [State.resetWith], hlen,
    by simpa [State.resetWith] using hlt⟩

/-- Settles O59: each invariant of a state with every channel at `Chan.reset`, every slot empty and every lock free. -/
theorem invariantsAtReset : Obligations.InvariantsAtReset := fun k inputs =>
  ⟨resetWith_rxInv k inputs, resetWith_txInv k inputs, resetWith_regInv k inputs, resetWith_sesInv k inputs,
    resetWith_lockInv k inputs, resetWith_driverIdle k inputs, resetWith_memInv k inputs,
    fun h => resetWith_sizeInv h inputs⟩

end Sys2Proof.Machine

/-! SUPPORT. The receivers, the sequence counters and the bytes put out (spec/20_memory.md R60, R69, R70, R73): what a caller
that carries on leaves alone, and the only operations that write or emit any of them. -/

namespace Sys2Proof.Machine

/-! ## What is kept of every channel, as one equation -/

/-- A channel reduced to what its worker's phase and place do not say. -/
def Chan.placeless (ch : Chan) : Chan := { ch with sesPhase := .stopped, ctl := .run }

/-- A channel reduced to its receiver (R22 to R28) and its sequence counter (R29). -/
def Chan.registers (ch : Chan) : Chan :=
  { Chan.reset with
    rxState := ch.rxState
    rxSeq   := ch.rxSeq
    rxMsgid := ch.rxMsgid
    rxLen   := ch.rxLen
    rxCnt   := ch.rxCnt
    rxCrc   := ch.rxCrc
    rxBuf   := ch.rxBuf
    txSeq   := ch.txSeq }

theorem Chan.placeless_resume (ch : Chan) (r : Return) : (ch.resume r).placeless = ch.placeless := by
  obtain ⟨ctl, e⟩ := ch.resume_eq r
  rw [e]
  rfl

theorem Chan.registers_rxContinue (ch : Chan) : ch.rxContinue.registers = ch.registers := by
  obtain ⟨ctl, e⟩ := ch.rxContinue_eq
  rw [e]
  rfl

theorem Chan.registers_sendByte {k : Config} {ch ch' : Chan} {b : Byte} (h : ch.sendByte k = some (b, ch')) :
    ch'.registers = ch.registers := by
  unfold Chan.sendByte at h
  split at h <;> cases h <;> rfl

theorem receiverKept_of_registers {a b : Chan} (h : b.registers = a.registers) : ReceiverKept a b :=
  ⟨(congrArg Chan.rxState h :),
    ⟨(congrArg Chan.rxSeq h :), (congrArg Chan.rxMsgid h :), (congrArg Chan.rxLen h :), (congrArg Chan.rxCnt h :),
      (congrArg Chan.rxCrc h :)⟩,
    fun i => (congrArg (fun ch : Chan => Memory.read ch.rxBuf i) h :)⟩

theorem ReceiverKept.refl (a : Chan) : ReceiverKept a a := receiverKept_of_registers rfl

theorem ReceiverKept.trans {a b d : Chan} (h : ReceiverKept a b) (k : ReceiverKept b d) : ReceiverKept a d := by
  obtain ⟨hst, ⟨hseq, hmsgid, hlen, hcnt, hcrc⟩, hbuf⟩ := h
  obtain ⟨kst, ⟨kseq, kmsgid, klen, kcnt, kcrc⟩, kbuf⟩ := k
  exact ⟨kst.trans hst, ⟨kseq.trans hseq, kmsgid.trans hmsgid, klen.trans hlen, kcnt.trans hcnt, kcrc.trans hcrc⟩,
    fun i => (kbuf i).trans (hbuf i)⟩

theorem State.setChan_map {α : Type} {f : Chan → α} {s : State} {c : ChanId} {ch ch' : Chan}
    (hc : s.chans[c]? = some ch) (h : f ch' = f ch) : (s.setChan c ch').chans.map f = s.chans.map f := by
  obtain ⟨hl, rfl⟩ := List.getElem?_eq_some_iff.mp hc
  apply List.ext_getElem?
  intro d
  by_cases hd : c = d
  · subst hd
    simp [hl, h]
  · simp [List.getElem?_set_ne hd]

theorem State.updChan_map {α : Type} {f : Chan → α} {g : Chan → Chan} (s : State) (c : ChanId)
    (h : ∀ ch, f (g ch) = f ch) : (s.updChan c g).chans.map f = s.chans.map f := by
  cases hc : s.chans[c]? with
  | none => rw [State.updChan_none hc]
  | some ch =>
    rw [State.updChan_some hc]
    exact State.setChan_map hc (h ch)

/-- A channel before and after, where a view of all channels is kept. -/
theorem State.chan_of_map {α : Type} {f : Chan → α} {s t : State} (h : t.chans.map f = s.chans.map f) {c : ChanId}
    {ch : Chan} (hc : s.chans[c]? = some ch) : ∃ ch', t.chans[c]? = some ch' ∧ f ch' = f ch := by
  have hm : (t.chans.map f)[c]? = some (f ch) := by rw [h, List.getElem?_map, hc]; rfl
  rw [List.getElem?_map] at hm
  exact Option.map_eq_some_iff.mp hm

/-! ## A caller that carries on (R284) -/

/-- The return of a broadcast moves its caller's phase and place alone. -/
theorem State.bcastReturn_placeless (s : State) (b : Bcast) (r : Result) :
    (s.bcastReturn b r).chans.map Chan.placeless = s.chans.map Chan.placeless := by
  unfold State.bcastReturn
  cases b.caller with
  | driver => rfl
  | handler c =>
    refine State.updChan_map _ c fun ch => ?_
    split
    · split <;> rfl
    · rfl
  | stop c =>
    refine State.updChan_map _ c fun ch => ?_
    split
    · split <;> rfl
    · rfl

/-- A caller that carries on moves a worker's phase and place alone. -/
theorem State.resume_placeless (s : State) (a : Agent) (r : Return) :
    (s.resume a r).chans.map Chan.placeless = s.chans.map Chan.placeless := by
  cases a with
  | driver => rfl
  | worker c =>
    cases hc : s.chans[c]? with
    | none => rw [State.resume_worker_none hc]
    | some ch =>
      rw [State.resume_worker hc]
      exact State.setChan_map hc (ch.placeless_resume r)
  | bcast k =>
    cases hb : s.findBcast k with
    | none => rw [State.resume_bcast_none hb]
    | some b =>
      rw [State.resume_bcast hb]
      unfold State.resumeBcast
      split
      case h_9 => exact s.bcastReturn_placeless b _
      all_goals rfl

/-- An output that hands the result of a `Reply` or a `Broadcast` to its caller (R203, R229). -/
inductive Output.Done : Output → Prop where
  | reply (c : ChanId) (r : Result) : Output.Done (.replyDone c r)
  | bcast (caller : BcastCaller) (r : Result) : Output.Done (.bcastDone caller r)

/-- A caller that carries on puts out nothing but the end of a command. -/
theorem State.resume_outputs (s : State) (a : Agent) (r : Return) :
    ∃ l, (s.resume a r).out = s.out ++ l ∧ ∀ o ∈ l, o.Done := by
  have nothing : ∃ l, s.out = s.out ++ l ∧ ∀ o ∈ l, Output.Done o := ⟨[], by simp⟩
  cases a with
  | driver => exact nothing
  | worker c =>
    cases hc : s.chans[c]? with
    | none => rwa [State.resume_worker_none hc]
    | some ch =>
      rw [State.resume_worker hc]
      refine ⟨_, rfl, fun o ho => ?_⟩
      unfold Chan.resumeOutput at ho
      split at ho
      · obtain rfl := List.mem_singleton.mp ho
        exact .reply c _
      · cases ho
  | bcast k =>
    cases hb : s.findBcast k with
    | none => rwa [State.resume_bcast_none hb]
    | some b =>
      rw [State.resume_bcast hb]
      unfold State.resumeBcast
      split
      case h_9 =>
        obtain ⟨chans, e⟩ := s.bcastReturn_eq b (.encFail ‹EncCause›)
        rw [e]
        refine ⟨_, rfl, fun o ho => ?_⟩
        obtain rfl := List.mem_singleton.mp ho
        exact .bcast b.caller _
      all_goals exact nothing

/-- What is read of the outputs, those ends left out, stays as it was. -/
theorem State.resume_filterMap {β : Type} {f : Output → Option β} (hf : ∀ o : Output, o.Done → f o = none) (s : State)
    (a : Agent) (r : Return) : (s.resume a r).out.filterMap f = s.out.filterMap f := by
  obtain ⟨l, hl, hd⟩ := s.resume_outputs a r
  rw [hl, List.filterMap_append, List.filterMap_eq_nil_iff.mpr fun o ho => hf o (hd o ho), List.append_nil]

/-! ## The bytes put out -/

/-- The byte an output puts on a channel's stream (R60). -/
def Output.byte : Output → Option (ChanId × Byte)
  | .emit c b => some (c, b)
  | _ => none

/-- The bytes put out so far on all channels, oldest first (R60). -/
def State.bytes (s : State) : List (ChanId × Byte) := s.out.filterMap Output.byte

theorem Output.Done.byte {o : Output} (h : o.Done) : o.byte = none := by
  cases h <;> rfl

theorem State.bytes_append {s t : State} {l : List Output} (h : t.out = s.out ++ l) :
    t.bytes = s.bytes ++ l.filterMap Output.byte := by
  rw [State.bytes, h, List.filterMap_append]
  rfl

theorem State.bytes_emit (s : State) (c : ChanId) (b : Byte) : (s.emit c b).bytes = s.bytes ++ [(c, b)] :=
  State.bytes_append (l := [.emit c b]) rfl

/-! ## Updates that leave receivers, counters and streams alone -/

/-- Every receiver and every sequence counter is as it was, outputs are only added, and none of them is a byte. -/
structure Quiet (s t : State) : Prop where
  registers : t.chans.map Chan.registers = s.chans.map Chan.registers
  out : s.out <+: t.out
  bytes : t.bytes = s.bytes

theorem Quiet.refl (s : State) : Quiet s s := ⟨rfl, List.prefix_refl _, rfl⟩

theorem Quiet.trans {s t u : State} (h : Quiet s t) (k : Quiet t u) : Quiet s u :=
  ⟨k.registers.trans h.registers, h.out.trans k.out, k.bytes.trans h.bytes⟩

/-- Nothing of it is said by the registry, the locks, the media, the broadcasts, the clock or the script. -/
theorem Quiet.of_eq {s t u : State} (h : Quiet s t) (hc : u.chans = t.chans := by rfl) (ho : u.out = t.out := by rfl) :
    Quiet s u := by
  refine h.trans ⟨by rw [hc], by rw [ho], ?_⟩
  rw [State.bytes, ho, State.bytes]

theorem Quiet.setLock {s t : State} (h : Quiet s t) (m : MediumId) (l : Lock) : Quiet s (t.setLock m l) := h.of_eq

theorem Quiet.setReg {s t : State} (h : Quiet s t) (i : SlotId) (r : Option ChanId) : Quiet s (t.setReg i r) := h.of_eq

theorem Quiet.updBcast {s t : State} (h : Quiet s t) (k : BcastId) (f : Bcast → Bcast) : Quiet s (t.updBcast k f) :=
  h.of_eq

theorem Quiet.beginBcast {s t : State} (h : Quiet s t) (caller : BcastCaller) (tag : Nat) (body : List Byte) :
    Quiet s (t.beginBcast caller tag body) :=
  h.of_eq

theorem Quiet.chan {s t : State} (h : Quiet s t) {c : ChanId} {ch : Chan} (hc : s.chans[c]? = some ch) :
    ∃ ch', t.chans[c]? = some ch' ∧ ch'.registers = ch.registers :=
  State.chan_of_map h.registers hc

theorem Quiet.output {s t : State} (h : Quiet s t) {o : Output} (ho : o.byte = none) : Quiet s (t.output o) :=
  h.trans ⟨rfl, ⟨[o], rfl⟩, by rw [State.bytes_append (State.output_out t o)]; simp [ho]⟩

theorem Quiet.signal {s t : State} (h : Quiet s t) (l : Level) : Quiet s (t.signal l) := h.output rfl

theorem Quiet.setChan {s t : State} (h : Quiet s t) {c : ChanId} {ch ch' : Chan} (hc : t.chans[c]? = some ch)
    (hr : ch'.registers = ch.registers := by rfl) : Quiet s (t.setChan c ch') :=
  h.trans ⟨State.setChan_map hc hr, List.prefix_refl _, rfl⟩

theorem Quiet.updChan {s t : State} (h : Quiet s t) (c : ChanId) {f : Chan → Chan}
    (hf : ∀ ch, (f ch).registers = ch.registers := by intro; rfl) : Quiet s (t.updChan c f) := by
  cases hc : t.chans[c]? with
  | none =>
    rw [State.updChan_none hc]
    exact h
  | some ch =>
    rw [State.updChan_some hc]
    exact h.setChan hc (hf ch)

theorem registers_of_placeless {s t : State} (h : t.chans.map Chan.placeless = s.chans.map Chan.placeless) :
    t.chans.map Chan.registers = s.chans.map Chan.registers := by
  have hcomp : Chan.registers = Chan.registers ∘ Chan.placeless := rfl
  rw [hcomp, ← List.map_map, h, List.map_map]

theorem Quiet.bcastReturn {s t : State} (h : Quiet s t) (b : Bcast) (r : Result) : Quiet s (t.bcastReturn b r) := by
  obtain ⟨chans, e⟩ := t.bcastReturn_eq b r
  have ho : (t.bcastReturn b r).out = t.out ++ [.bcastDone b.caller r] := by rw [e]
  exact h.trans ⟨registers_of_placeless (t.bcastReturn_placeless b r), ⟨_, ho.symm⟩,
    (State.bytes_append ho).trans (List.append_nil _)⟩

theorem Quiet.resume {s t : State} (h : Quiet s t) (a : Agent) (r : Return) : Quiet s (t.resume a r) := by
  obtain ⟨l, hl, -⟩ := t.resume_outputs a r
  exact h.trans ⟨registers_of_placeless (t.resume_placeless a r), ⟨l, hl.symm⟩,
    t.resume_filterMap (fun _ => Output.Done.byte) a r⟩

theorem Quiet.ret {s t : State} (h : Quiet s t) (a : Agent) (r : Result) : Quiet s (t.ret a r) :=
  (h.output rfl).resume a _

theorem Quiet.raise {s t : State} (h : Quiet s t) {f : Failure} (hf : ∀ c cause, f ≠ .rxFail c cause) :
    Quiet s (t.raise f) := by
  refine Quiet.ret ?_ _ _
  cases f with
  | rxFail c cause => exact absurd rfl (hf c cause)
  | txFail c caller => exact (h.signal .fail).updChan c
  | encFail caller cause => exact h.signal .fail
  | bodyFail caller => exact h.signal .fail
  | startFail c => exact h

/-! ## What each operation writes and emits -/

/-- What operation `i` may write of the receiver and of the sequence counter of channel `c` (R29, R73 (b)). -/
structure Written (i : Instr) (c : ChanId) (a b : Chan) : Prop where
  receiver : touchesReceiver c i = false → ReceiverKept a b
  counter : b.txSeq = a.txSeq ∨ (∃ agent msgid, i = .txSend c (.call agent msgid) ∧ b.txSeq = a.txSeq + 1) ∨
    (i = .sesStart c .init ∧ b.txSeq = 0)

theorem Written.of_registers {i : Instr} {c : ChanId} {a b : Chan} (h : b.registers = a.registers) : Written i c a b :=
  ⟨fun _ => receiverKept_of_registers h, .inl (congrArg Chan.txSeq h :)⟩

theorem Written.congr {i : Instr} {c : ChanId} {a b d : Chan} (h : Written i c a b) (hd : d.registers = b.registers) :
    Written i c a d where
  receiver hi := (h.receiver hi).trans (receiverKept_of_registers hd)
  counter := by
    have ht : d.txSeq = b.txSeq := (congrArg Chan.txSeq hd :)
    rw [ht]
    exact h.counter

/-- What an operation can answer: a stop; a state in which receivers, counters and streams are as they were; the same but
for one channel's registers; or the same after one byte, the pending write's. -/
inductive Writes (s : State) (i : Instr) : Answer → Prop where
  | fault (f : Fault) : Writes s i (.fault f)
  | refused (r : Refusal) : Writes s i (.refused r)
  | quiet {t : State} (h : Quiet s t) : Writes s i (.next t)
  | channel {c : ChanId} {ch ch' : Chan} {t : State} (hc : s.chans[c]? = some ch)
      (h : Quiet (s.setChan c ch') t) (hw : Written i c ch ch') : Writes s i (.next t)
  | byte {c : ChanId} {ch : Chan} {a : Agent} {b : Byte} {t : State} (hc : s.chans[c]? = some ch)
      (hj : ch.txJob.caller = some a) (h : Quiet (s.emit c b) t) : Writes s i (.next t)

theorem Writes.onChan {s : State} {i : Instr} {c : ChanId} {f : Chan → Answer}
    (h : ∀ ch, s.chans[c]? = some ch → Writes s i (f ch)) : Writes s i (s.onChan c f) := by
  cases hc : s.chans[c]? with
  | none =>
    rw [State.onChan_none hc]
    exact .fault _
  | some ch =>
    rw [State.onChan_some hc]
    exact h ch hc

theorem Writes.onTransport {s : State} {i : Instr} {a : Agent} {c : ChanId} {f : Chan → Answer}
    (h : ∀ ch, s.chans[c]? = some ch → Writes s i (f ch)) : Writes s i (s.onTransport a c f) := by
  refine .onChan fun ch hc => ?_
  split
  · split
    · exact .refused _
    · exact h ch hc
  · exact .refused _

/-- Registers of a channel are written, none of them its receiver's or the sequence counter. -/
theorem writes_setChan {s : State} {i : Instr} {c : ChanId} {ch ch' : Chan} (hc : s.chans[c]? = some ch)
    (hr : ch'.registers = ch.registers := by rfl) : Writes s i (.next (s.setChan c ch')) :=
  .quiet ((Quiet.refl s).setChan hc hr)

/-! ### Receiver -/

/-- A receiver's own operation writes its channel's registers other than the sequence counter. -/
theorem Writes.receiver {s t : State} {i : Instr} {c : ChanId} {ch ch' : Chan} (hi : touchesReceiver c i = true)
    (hc : s.chans[c]? = some ch) (h : Quiet (s.setChan c ch') t) (hs : ch'.txSeq = ch.txSeq := by rfl) :
    Writes s i (.next t) :=
  .channel hc h ⟨fun hn => by simp [hi] at hn, .inl hs⟩

section Receiver

variable {s : State} {i : Instr} {c : ChanId} (hi : touchesReceiver c i = true)
include hi

theorem writes_rxContinue {ch ch' : Chan} (hc : s.chans[c]? = some ch) (hs : ch'.txSeq = ch.txSeq := by rfl) :
    Writes s i (.next (s.setChan c ch'.rxContinue)) :=
  .receiver hi hc (.refl _) (by rw [Chan.rxContinue_txSeq, hs])

theorem writes_rxNoData : Writes s i (rxNoData c s) :=
  .onChan fun _ hc => .receiver hi hc ((Quiet.refl _).ret _ _)

theorem writes_rxFail {ch : Chan} (hc : s.chans[c]? = some ch) (cause : RxCause) :
    Writes s i (.next (s.raise (.rxFail c cause))) := by
  rw [State.raise_rxFail hc]
  exact .receiver hi hc (((Quiet.refl _).signal .fail).ret _ _)

theorem writes_rxMidframe : Writes s i (rxMidframe c s) :=
  .onChan fun _ hc => writes_rxFail hi hc _

theorem writes_rxPayload (b : Byte) : Writes s i (execRxPayload c b s) := by
  refine .onChan fun ch hc => ?_
  split
  · exact writes_rxContinue hi hc
  · exact .fault _

theorem writes_rxCrc (b : Byte) : Writes s i (execRxCrc c b s) := by
  refine .onChan fun ch hc => ?_
  split
  · exact .receiver hi hc (((Quiet.refl _).signal .normal).ret _ _)
  · exact writes_rxFail hi hc _

end Receiver

theorem writes_rxReceive (s : State) (i : Instr) (c : ChanId) : Writes s i (execRxReceive c s) := by
  refine .onChan fun ch hc => ?_
  split
  · exact .quiet ((Quiet.refl s).ret _ _)
  · exact writes_setChan hc

/-! ### Sender -/

/-- The call of `TX.SEND` advances the counter (R161). -/
theorem writes_sendCall (s : State) (c : ChanId) (a : Agent) (msgid : Byte) :
    Writes s (.txSend c (.call a msgid)) (sendCall c a msgid s) :=
  .onTransport fun _ hc =>
    .channel hc ((Quiet.refl _).resume _ _) ⟨fun _ => .refl _, .inr (.inl ⟨a, msgid, rfl, rfl⟩)⟩

/-- The step of a pending write that emits a byte (R161, R166). -/
theorem quiet_emit {s : State} {c : ChanId} {ch ch' : Chan} (hc : s.chans[c]? = some ch)
    (b : Byte) (hr : ch'.registers = ch.registers := by rfl) : Quiet (s.emit c b) ((s.setChan c ch').emit c b) :=
  (Quiet.refl (s.emit c b)).setChan hc hr

theorem writes_sendReady (s : State) (i : Instr) (c : ChanId) : Writes s i (sendReady c s) := by
  refine .onChan fun ch hc => ?_
  split
  · rename_i a hj
    have hcaller : ch.txJob.caller = some a := by rw [hj]; rfl
    split
    · exact .fault _
    · split
      · exact .quiet (.refl s)
      · rename_i b ch' hb
        have hq := quiet_emit hc b (Chan.registers_sendByte hb)
        dsimp only
        split
        · exact .byte hc hcaller (hq.ret _ _)
        · exact .byte hc hcaller hq
  · exact .quiet (.refl s)

theorem writes_txFail (s : State) (i : Instr) (c : ChanId) (a : Agent) : Writes s i (.next (s.raise (.txFail c a))) :=
  .quiet ((Quiet.refl s).raise (by simp))

theorem writes_sendAbort (s : State) (i : Instr) (c : ChanId) : Writes s i (sendAbort c s) := by
  refine .onChan fun ch hc => ?_
  split
  · exact writes_txFail s i c _
  · exact .quiet (.refl s)

theorem writes_txSend (s : State) (c : ChanId) (x : SendInput) : Writes s (.txSend c x) (execTxSend c x s) := by
  cases x with
  | call a msgid => exact writes_sendCall s c a msgid
  | ready => exact writes_sendReady s _ c
  | timeout => exact writes_sendAbort s _ c
  | chReset => exact writes_sendAbort s _ c

theorem writes_rawCall (s : State) (i : Instr) (c : ChanId) (a : Agent) (frame : List Byte) :
    Writes s i (rawCall c a frame s) := by
  refine .onTransport fun ch hc => ?_
  dsimp only
  split
  · exact .quiet ((((Quiet.refl s).setChan hc).resume _ _).ret _ _)
  · exact .quiet (((Quiet.refl s).setChan hc).resume _ _)

theorem writes_rawReady (s : State) (i : Instr) (c : ChanId) : Writes s i (rawReady c s) := by
  refine .onChan fun ch hc => ?_
  split
  · rename_i a b rest hj
    have hcaller : ch.txJob.caller = some a := by rw [hj]; rfl
    dsimp only
    split
    · exact .byte hc hcaller ((quiet_emit hc b).ret _ _)
    · exact .byte hc hcaller (quiet_emit hc b)
  · exact .quiet (.refl s)

theorem writes_rawAbort (s : State) (i : Instr) (c : ChanId) : Writes s i (rawAbort c s) := by
  refine .onChan fun ch hc => ?_
  split
  · exact writes_txFail s i c _
  · exact .quiet (.refl s)

theorem writes_txRaw (s : State) (i : Instr) (c : ChanId) (x : RawInput) : Writes s i (execTxRaw c x s) := by
  cases x with
  | call a frame => exact writes_rawCall s i c a frame
  | ready => exact writes_rawReady s i c
  | timeout => exact writes_rawAbort s i c
  | chReset => exact writes_rawAbort s i c

/-! ### Locks -/

theorem writes_lockAcq (s : State) (i : Instr) (a : Agent) (m : MediumId) : Writes s i (execLockAcq a m s) := by
  unfold execLockAcq
  split
  · exact .fault _
  · exact .quiet (((Quiet.refl s).setLock _ _).resume _ _)
  · exact .quiet (.refl s)

theorem writes_lockRel (s : State) (i : Instr) (a : Agent) (m : MediumId) : Writes s i (execLockRel a m s) := by
  unfold execLockRel
  split
  · exact .fault _
  · split
    · split
      · exact .refused _
      · exact .quiet (((Quiet.refl s).setLock _ _).resume _ _)
    · exact .refused _

/-! ### Envelope codec -/

theorem writes_envEncode (s : State) (i : Instr) (a : Agent) (c : ChanId) (t : Nat) (body : List Byte) :
    Writes s i (execEnvEncode a c t body s) := by
  refine .onTransport fun ch hc => ?_
  split
  · exact .quiet ((Quiet.refl s).raise (by simp))
  · dsimp only
    split
    · exact .quiet ((Quiet.refl s).raise (by simp))
    · exact .quiet (((Quiet.refl s).setChan hc).ret _ _)

theorem writes_envBody (s : State) (i : Instr) (v : Variant) (payload : List Byte) :
    Writes s i (execEnvBody v payload s) := by
  refine .quiet ?_
  split
  · exact (Quiet.refl s).ret _ _
  · exact (Quiet.refl s).raise (by simp)

theorem writes_dropSilently (s : State) (i : Instr) (c : ChanId) : Writes s i (dropSilently c s) :=
  .onChan fun _ hc => writes_setChan hc

theorem quiet_dropBadBody (s : State) (c : ChanId) : Quiet s (dropBadBody c s) :=
  ((Quiet.refl s).raise (by simp)).updChan c

theorem writes_routeToHandler (s : State) (i : Instr) (v : Variant) (c : ChanId) (w : BitVec 3) :
    Writes s i (routeToHandler v c w s) := by
  refine .onChan fun ch hc => .quiet ?_
  split
  · exact (((Quiet.refl s).ret _ _).output rfl).updChan c
  · exact quiet_dropBadBody s c

theorem writes_decodeAndDiscard (s : State) (i : Instr) (v : Variant) (c : ChanId) (w : BitVec 3) :
    Writes s i (decodeAndDiscard v c w s) := by
  refine .onChan fun ch hc => .quiet ?_
  split
  · exact ((Quiet.refl s).ret _ _).updChan c
  · exact quiet_dropBadBody s c

theorem writes_envMemoryDumpRequest (s : State) (i : Instr) (c : ChanId) (w : BitVec 3) :
    Writes s i (execEnvMemoryDumpRequest c w s) := by
  unfold execEnvMemoryDumpRequest
  split
  · exact writes_routeToHandler s i _ c w
  · exact writes_dropSilently s i c

/-! ### Registry and broadcast -/

theorem quiet_clearSlot {s : State} {c : ChanId} {ch : Chan} (hc : s.chans[c]? = some ch) :
    Quiet s (clearSlot c ch s) := by
  unfold clearSlot
  split
  · exact ((Quiet.refl s).setReg _ _).setChan hc
  · exact .refl s

theorem writes_regClaim (s : State) (o : Instr) (c : ChanId) (i : SlotId) : Writes s o (execRegClaim c i s) := by
  refine .onChan fun ch hc => ?_
  split
  · split
    · exact .quiet ((((Quiet.refl s).setReg _ _).setChan hc).ret _ _)
    · split
      · exact .quiet ((Quiet.refl s).resume _ _)
      · exact .quiet ((Quiet.refl s).raise (by simp))
    · exact .quiet ((Quiet.refl s).raise (by simp))
  · exact .refused _

theorem writes_bcastCall (s : State) (i : Instr) (caller : BcastCaller) (t : Nat) (body : List Byte) :
    Writes s i (bcastCall caller t body s) := by
  cases caller with
  | driver => exact .quiet ((Quiet.refl s).beginBcast _ _ _)
  | handler c =>
    refine .onChan fun ch hc => ?_
    split
    · exact .quiet (((Quiet.refl s).setChan hc).beginBcast _ _ _)
    · exact .quiet (.refl s)
  | stop c => exact .onChan fun ch hc => .quiet (((Quiet.refl s).setChan hc).beginBcast _ _ _)

theorem writes_bcastVisit (s : State) (o : Instr) (k : BcastId) (i : SlotId) : Writes s o (bcastVisit k i s) := by
  unfold bcastVisit
  split
  · exact .quiet (.refl s)
  · split
    · exact .quiet ((Quiet.refl s).updBcast _ _)
    · exact .quiet (.refl s)

theorem writes_bcastCopy (s : State) (i : Instr) (k : BcastId) : Writes s i (bcastCopy k s) := by
  unfold bcastCopy
  split
  · exact .quiet (.refl s)
  · split
    · exact .onTransport fun ch hc => .quiet (((Quiet.refl s).setChan hc).updBcast _ _)
    · exact .quiet (.refl s)

theorem writes_bcastFinish (s : State) (i : Instr) (k : BcastId) : Writes s i (bcastFinish k s) := by
  unfold bcastFinish
  split
  · exact .quiet (.refl s)
  · split
    · exact .quiet ((Quiet.refl s).bcastReturn _ _)
    · exact .quiet (.refl s)

theorem writes_bcastSend (s : State) (i : Instr) (x : BcastInput) : Writes s i (execBcastSend x s) := by
  cases x with
  | call caller t body => exact writes_bcastCall s i caller t body
  | visit k j => exact writes_bcastVisit s i k j
  | copy k => exact writes_bcastCopy s i k
  | finish k => exact writes_bcastFinish s i k

/-! ### Worker -/

/-- A new session has a new transport: receiver and counter start anew (R221). -/
theorem writes_startInit (s : State) (c : ChanId) : Writes s (.sesStart c .init) (startInit c s) :=
  .onChan fun _ hc => .channel hc (.refl _) ⟨fun h => by simp [touchesReceiver] at h, .inr (.inr ⟨rfl, rfl⟩)⟩

theorem writes_sesStart (s : State) (c : ChanId) (x : StartInput) : Writes s (.sesStart c x) (execSesStart c x s) := by
  cases x with
  | event =>
    refine .onChan fun ch hc => ?_
    split
    · exact writes_setChan hc
    · exact .quiet (.refl s)
  | init => exact writes_startInit s c
  | arm => exact .onChan fun ch hc => writes_setChan hc
  | enter => exact .onChan fun ch hc => writes_setChan hc

theorem writes_sesStatus (s : State) (i : Instr) (c : ChanId) (x : StatusInput) :
    Writes s i (execSesStatus c x s) := by
  refine .onChan fun ch hc => ?_
  have hcall : Writes s i (.next (statusCall c ch s)) := .quiet (((Quiet.refl s).setChan hc).output rfl)
  cases x with
  | compare =>
    dsimp only
    split
    · exact hcall
    · exact writes_setChan hc
  | due => exact hcall
  | handlerDone => exact writes_setChan hc

theorem writes_sesReceive (s : State) (i : Instr) (c : ChanId) : Writes s i (execSesReceive c s) := by
  refine .onChan fun ch hc => ?_
  split
  · exact writes_setChan hc
  · exact writes_setChan hc
  · exact .quiet (.refl s)

theorem writes_sesDispatch (s : State) (i : Instr) (c : ChanId) (x : DispatchInput) :
    Writes s i (execSesDispatch c x s) := by
  refine .onChan fun ch hc => ?_
  cases x with
  | pass1 =>
    dsimp only
    split
    · exact writes_setChan hc
    · exact writes_setChan hc
  | handlerDone => exact writes_setChan hc

theorem writes_sesSend (s : State) (i : Instr) (c : ChanId) (t : Nat) (body : List Byte) :
    Writes s i (execSesSend c t body s) := by
  refine .onChan fun ch hc => ?_
  split
  · exact writes_setChan hc
  · exact .quiet (.refl s)

theorem writes_sesStop (s : State) (i : Instr) (c : ChanId) : Writes s i (execSesStop c s) := by
  refine .onChan fun ch hc => ?_
  split
  · exact .quiet ((quiet_clearSlot hc).updChan c)
  · exact writes_bcastCall s i _ _ _
  · exact .quiet (.refl s)

/-- Every operation, in every state, answers as `Writes` says. -/
theorem exec_writes (i : Instr) (s : State) : Writes s i (exec i s) := by
  cases i with
  | crc8Update r b => exact .quiet ((Quiet.refl s).ret _ _)
  | crc8Block r buf => exact .quiet ((Quiet.refl s).ret _ _)
  | rxStart c => exact .onChan fun ch hc => writes_rxContinue (by simp [touchesReceiver]) hc
  | rxDiscard c b => exact .onChan fun ch hc => writes_setChan hc ch.registers_rxContinue
  | rxSeq c b => exact .onChan fun ch hc => writes_rxContinue (by simp [touchesReceiver]) hc
  | rxMsgid c b => exact .onChan fun ch hc => writes_rxContinue (by simp [touchesReceiver]) hc
  | rxLen c b => exact .onChan fun ch hc => writes_rxContinue (by simp [touchesReceiver]) hc
  | rxPayload c b => exact writes_rxPayload (by simp [touchesReceiver]) b
  | rxCrc c b => exact writes_rxCrc (by simp [touchesReceiver]) b
  | rxIdleTmo c => exact writes_rxNoData (by simp [touchesReceiver])
  | rxBulkTmo c => exact writes_rxMidframe (by simp [touchesReceiver])
  | rxIdleRst c => exact writes_rxNoData (by simp [touchesReceiver])
  | rxBulkRst c => exact writes_rxMidframe (by simp [touchesReceiver])
  | rxReceive c => exact writes_rxReceive s _ c
  | txSend c x => exact writes_txSend s c x
  | txRaw c x => exact writes_txRaw s _ c x
  | lockAcq a m => exact writes_lockAcq s _ a m
  | lockRel a m => exact writes_lockRel s _ a m
  | envEncode a c t body => exact writes_envEncode s _ a c t body
  | envDiscriminate payload => exact .quiet ((Quiet.refl s).ret _ _)
  | envBody v payload => exact writes_envBody s _ v payload
  | regClaim c j => exact writes_regClaim s _ c j
  | regClear c => exact .onChan fun ch hc => .quiet (quiet_clearSlot hc)
  | bcastSend x => exact writes_bcastSend s _ x
  | sesStart c x => exact writes_sesStart s c x
  | sesCheckTerm c => exact .onChan fun ch hc => writes_setChan hc
  | sesStatus c x => exact writes_sesStatus s _ c x
  | sesReceive c => exact writes_sesReceive s _ c
  | sesDispatch c x => exact writes_sesDispatch s _ c x
  | sesSend c t body => exact writes_sesSend s _ c t body
  | sesStop c => exact writes_sesStop s _ c
  | frame c seq msgid payload crc => exact .onChan fun ch hc => writes_setChan hc
  | envStatus c w => exact writes_dropSilently s _ c
  | envStatusText c w => exact writes_dropSilently s _ c
  | envTimeReference c w => exact writes_routeToHandler s _ _ c w
  | envCommand c w => exact writes_routeToHandler s _ _ c w
  | envParamRequest c w => exact writes_routeToHandler s _ _ c w
  | envParamSet c w => exact writes_routeToHandler s _ _ c w
  | envParamValue c w => exact writes_dropSilently s _ c
  | envLogRequest c w => exact writes_decodeAndDiscard s _ _ c w
  | envMemoryDumpRequest c w => exact writes_envMemoryDumpRequest s _ c w
  | envMemoryDumpPage c w => exact writes_dropSilently s _ c

/-- A channel before an operation, and what the operation may write of its receiver and counter. -/
theorem exec_written {i : Instr} {s t : State} (h : exec i s = .next t) {c : ChanId} {ch : Chan}
    (hc : s.chans[c]? = some ch) : ∃ ch', t.chans[c]? = some ch' ∧ Written i c ch ch' := by
  have hw := exec_writes i s
  rw [h] at hw
  cases hw with
  | quiet hq =>
    obtain ⟨ch', hc', hr⟩ := hq.chan hc
    exact ⟨ch', hc', .of_registers hr⟩
  | @channel d dh dh' _ hd hq hw =>
    by_cases hcd : c = d
    · subst hcd
      obtain rfl : ch = dh := Option.some_inj.mp (hc.symm.trans hd)
      obtain ⟨ch', hc', hr⟩ := hq.chan (State.setChan_get_self hc dh')
      exact ⟨ch', hc', hw.congr hr⟩
    · obtain ⟨ch', hc', hr⟩ := hq.chan ((State.setChan_get_ne s hcd dh').trans hc)
      exact ⟨ch', hc', .of_registers hr⟩
  | byte _ _ hq =>
    obtain ⟨ch', hc', hr⟩ := hq.chan (s := s.emit _ _) hc
    exact ⟨ch', hc', .of_registers hr⟩

/-- Settles O23: what an operation may write of a channel's receiver and counter (`exec_written`), part by part. -/
theorem registerWriters : Obligations.RegisterWriters := by
  refine ⟨fun i s t c ch h hc hi => ?_, fun i s t c ch h hc => ?_⟩
  · obtain ⟨ch', hc', hw⟩ := exec_written h hc
    exact ⟨ch', hc', hw.receiver hi⟩
  · obtain ⟨ch', hc', hw⟩ := exec_written h hc
    exact ⟨ch', hc', hw.counter⟩

/-! ## What a step emits -/

/-- Outputs are only added, at most one of them a byte, which belongs to a write pending on its channel. -/
structure Emits (s t : State) : Prop where
  out : s.out <+: t.out
  bytes : t.bytes = s.bytes ∨
    ∃ c ch a b, s.chans[c]? = some ch ∧ ch.txJob.caller = some a ∧ t.bytes = s.bytes ++ [(c, b)]

theorem Quiet.emits {s t : State} (h : Quiet s t) : Emits s t := ⟨h.out, .inl h.bytes⟩

theorem exec_emits {i : Instr} {s t : State} (h : exec i s = .next t) : Emits s t := by
  have hw := exec_writes i s
  rw [h] at hw
  cases hw with
  | quiet hq => exact hq.emits
  | channel _ hq => exact ⟨hq.out, .inl hq.bytes⟩
  | @byte c ch a b _ hc hj hq =>
    refine ⟨List.IsPrefix.trans ⟨_, rfl⟩ hq.out, .inr ⟨c, ch, a, b, hc, hj, ?_⟩⟩
    rw [hq.bytes, State.bytes_emit]

/-- The state an operation runs in has the outputs of the step's own, and its channels but for the bytes their devices
hold. -/
theorem Runs.quiet {s t : State} {i : Instr} (h : Runs s i t) : Quiet s t := by
  cases h with
  | worker _ _ script => exact (Quiet.refl s).of_eq
  | receiver hc _ _ rxs e => exact (Quiet.refl s).setChan hc
  | _ => exact .refl s

theorem Runs.txJob {s t : State} {i : Instr} (h : Runs s i t) :
    t.chans.map Chan.txJob = s.chans.map Chan.txJob := by
  cases h with
  | receiver hc _ _ rxs e => exact State.setChan_map hc rfl
  | _ => rfl

/-- An operation that a step runs emits for a write that was pending when the step began. -/
theorem Runs.emits {s t u : State} {i : Instr} (h : Runs s i t) (he : exec i t = .next u) : Emits s u := by
  obtain ⟨hout, hbytes⟩ := exec_emits he
  refine ⟨h.quiet.out.trans hout, ?_⟩
  rw [h.quiet.bytes] at hbytes
  refine hbytes.imp_right fun ⟨c, ch, a, b, hc, hj, hb⟩ => ?_
  obtain ⟨dh, hd, hdj⟩ := State.chan_of_map h.txJob.symm hc
  exact ⟨c, dh, a, b, hd, by rwa [hdj], hb⟩

theorem step_emits {s t : State} (h : step s = .next t) : Emits s t := by
  have same {u : State} (ho : u.out = s.out) : Emits s u :=
    ⟨by rw [ho], .inl (by rw [State.bytes, ho, State.bytes])⟩
  rcases step_carriesOut s with hn | ⟨σ, rest, p, -, hp, ho⟩
  · rw [hn] at h
    cases h
    exact same rfl
  · rw [ho] at h
    cases hp with
    | run hr =>
      obtain ⟨hout, hbytes⟩ := hr.emits h
      exact ⟨hout, hbytes⟩
    | idle | held | terminate | rst | clock | medium => cases h; exact same rfl
    | noChannel | noMedium | refused => cases h

/-- Settles O30: the added byte, if there is one, belongs to a pending write (`step_emits`), whose caller holds the lock
where locks and agents agree. -/
theorem emitsOnlyUnderLock : Obligations.EmitsOnlyUnderLock := by
  intro s t hinv h
  obtain ⟨⟨l, hl⟩, hbytes⟩ := step_emits h
  rw [State.bytes_append hl.symm] at hbytes
  refine ⟨l, hl.symm, ?_, fun c b hm => ?_⟩
  · have hlen : (l.filterMap Output.byte).length ≤ 1 := by
      rcases hbytes with hb | ⟨c, ch, a, b, -, -, hb⟩
      · simp [List.append_right_eq_self.mp hb]
      · simp [List.append_cancel_left hb]
    rw [List.length_filterMap_eq_countP, List.countP_eq_length_filter] at hlen
    convert hlen using 4 with o
    cases o <;> rfl
  · have hmem : (c, b) ∈ l.filterMap Output.byte := List.mem_filterMap.mpr ⟨_, hm, rfl⟩
    rcases hbytes with hb | ⟨d, ch, a, x, hc, hj, hb⟩
    · rw [List.append_right_eq_self.mp hb] at hmem
      cases hmem
    · rw [List.append_cancel_left hb, List.mem_singleton] at hmem
      cases hmem
      exact ⟨ch, a, hc, hj, hinv.job _ ch a hc hj⟩

end Sys2Proof.Machine

/-! SUPPORT. The two lock operations (spec/20_memory.md R75), outcome by outcome, and what their caller leaves alone as it
carries on. -/

namespace Sys2Proof.Machine

/-! ## What the caller of a lock operation leaves alone -/

theorem State.resume_world (s : State) (a : Agent) (r : Return) : WorldKept s (s.resume a r) := by
  simp [WorldKept]

/-- Only a broadcast that carries on writes a broadcast's context. -/
theorem State.resume_bcasts {s : State} {a : Agent} (h : ∀ k, a ≠ .bcast k) (r : Return) :
    (s.resume a r).bcasts = s.bcasts := by
  cases a with
  | driver => rfl
  | worker c =>
    cases hc : s.chans[c]? with
    | none => rw [State.resume_worker_none hc]
    | some ch => rw [State.resume_worker hc, State.setChan_bcasts]
  | bcast k => exact absurd rfl (h k)

/-- A broadcast returns to its caller after a release only (R205): with anything else it moves its own context alone. -/
theorem State.resumeBcast_of_ne_released (s : State) (b : Bcast) {r : Return} (hr : r ≠ .released) :
    (s.resumeBcast b r).chans = s.chans ∧ (s.resumeBcast b r).out = s.out := by
  unfold State.resumeBcast
  split
  case h_9 => exact absurd rfl hr
  all_goals exact ⟨rfl, rfl⟩

theorem Chan.resumeOutput_of_ne_released (c : ChanId) (ch : Chan) {r : Return} (hr : r ≠ .released) :
    ch.resumeOutput c r = [] := by
  unfold Chan.resumeOutput
  split
  · exact absurd rfl hr
  · rfl

/-- A caller puts something out after a release only (R205, R229). -/
theorem State.resume_out_of_ne_released (s : State) (a : Agent) {r : Return} (hr : r ≠ .released) :
    (s.resume a r).out = s.out := by
  cases a with
  | driver => rfl
  | worker c =>
    cases hc : s.chans[c]? with
    | none => rw [State.resume_worker_none hc]
    | some ch => simp [State.resume_worker hc, Chan.resumeOutput_of_ne_released c ch hr]
  | bcast k =>
    cases hb : s.findBcast k with
    | none => rw [State.resume_bcast_none hb]
    | some b =>
      rw [State.resume_bcast hb]
      exact (s.resumeBcast_of_ne_released b hr).2

/-- A caller that carries on, but from a release, moves a worker's place alone. -/
theorem State.resume_chan_of_ne_released {s : State} {c : ChanId} {ch : Chan} (hc : s.chans[c]? = some ch) (a : Agent)
    {r : Return} (hr : r ≠ .released) : ∃ ch', (s.resume a r).chans[c]? = some ch' ∧ ChanKeptButCtl ch ch' := by
  have same : ∃ ch', s.chans[c]? = some ch' ∧ ChanKeptButCtl ch ch' := ⟨ch, hc, ch.ctl, rfl⟩
  cases a with
  | driver => exact same
  | worker d =>
    cases hd : s.chans[d]? with
    | none => rwa [State.resume_worker_none hd]
    | some dh =>
      rw [State.resume_worker hd]
      by_cases hcd : c = d
      · subst hcd
        obtain rfl : ch = dh := Option.some_inj.mp (hc.symm.trans hd)
        exact ⟨_, State.setChan_get_self hc _, ch.resume_eq r⟩
      · exact ⟨ch, (State.setChan_get_ne s hcd _).trans hc, ch.ctl, rfl⟩
  | bcast k =>
    cases hb : s.findBcast k with
    | none => rwa [State.resume_bcast_none hb]
    | some b =>
      rw [State.resume_bcast hb, (s.resumeBcast_of_ne_released b hr).1]
      exact same

theorem State.resume_signals (s : State) (a : Agent) (r : Return) : (s.resume a r).signals = s.signals :=
  State.resume_filterMap (fun o h => by cases h <;> rfl) s a r

theorem State.resume_txs (s : State) (a : Agent) (r : Return) (c : ChanId) : (s.resume a r).txs c = s.txs c :=
  State.resume_filterMap (fun o h => by cases h <;> rfl) s a r

theorem senderKept_of_placeless {a b : Chan} (h : b.placeless = a.placeless) : SenderKept a b :=
  ⟨(congrArg Chan.txSeq h :), (congrArg Chan.txLen h :), (congrArg Chan.txPhase h :), (congrArg Chan.txIdx h :),
    (congrArg Chan.txCrc h :), (congrArg Chan.txHdrSeq h :), (congrArg Chan.txHdrMsgid h :), (congrArg Chan.txJob h :),
    fun i => (congrArg (fun ch : Chan => Memory.read ch.txBuf i) h :)⟩

theorem receiverKept_of_placeless {a b : Chan} (h : b.placeless = a.placeless) : ReceiverKept a b :=
  receiverKept_of_registers (congrArg Chan.registers h :)

/-! ## The outcomes -/

theorem exec_lockAcq_free {s : State} {m : MediumId} (h : s.locks[m]? = some .free) (a : Agent) :
    exec (.lockAcq a m) s = .next ((s.setLock m (.held a)).resume a .acquired) := by
  simp [exec, execLockAcq, h]

theorem exec_lockAcq_held {s : State} {m : MediumId} {b : Agent} (h : s.locks[m]? = some (.held b)) (a : Agent) :
    exec (.lockAcq a m) s = .next s := by
  simp [exec, execLockAcq, h]

theorem exec_lockRel_holder {s : State} {a : Agent} {m : MediumId} (h : s.locks[m]? = some (.held a))
    (hw : s.writePending m = false) :
    exec (.lockRel a m) s = .next ((s.setLock m .free).resume a .released) := by
  simp [exec, execLockRel, h, hw]

theorem exec_lockRel_other {s : State} {a : Agent} {m : MediumId} {l : Lock} (h : s.locks[m]? = some l)
    (hl : l ≠ .held a) : exec (.lockRel a m) s = .refused (.notLockHolder a m) := by
  simp [exec, execLockRel, h, hl]

/-- Settles O28: the four outcomes of R75, the first and the third with what the caller leaves alone as it carries on. -/
theorem lockOperations : Obligations.LockOperations := by
  intro s a m
  refine ⟨fun hfree => ⟨_, exec_lockAcq_free hfree a, ?_⟩, fun b hheld => exec_lockAcq_held hheld a,
    fun hheld hw => ⟨_, exec_lockRel_holder hheld hw, ?_⟩, fun l hl hne => exec_lockRel_other hl hne⟩
  · exact ⟨State.resume_locks .., State.resume_out_of_ne_released _ a (by simp), State.resume_world _ a _,
      State.resume_reg .., State.resume_nextBc .., fun ha => State.resume_bcasts ha _,
      fun c ch hc => State.resume_chan_of_ne_released (s := s.setLock m _) hc a (by simp)⟩
  · refine ⟨State.resume_locks .., State.resume_world _ a _, State.resume_reg .., State.resume_nextBc ..,
      State.resume_signals _ a _, State.resume_txs _ a _, fun ha => State.resume_bcasts ha _, fun c ch hc => ?_⟩
    obtain ⟨ch', hc', hp⟩ := State.chan_of_map (State.resume_placeless (s.setLock m .free) a .released) hc
    exact ⟨ch', hc', receiverKept_of_placeless hp, senderKept_of_placeless hp, (congrArg Chan.sesSlot hp :),
      (congrArg Chan.sesTermReq hp :), (congrArg Chan.sesLastStatus hp :)⟩

end Sys2Proof.Machine

/-! SUPPORT. How the next stimulus becomes the operation that runs (spec/20_memory.md R72, spec/30_encoding.md R110,
R111), and whose calls have no step (spec/60_exceptions.md R286). -/

namespace Sys2Proof.Machine

theorem step_of_script {s : State} {σ : Stim} {rest : List Stim} (h : s.script = σ :: rest) :
    step s = (State.plan { s with script := rest } σ).carryOut := by
  simp [step, h]

/-- A selected word runs its operation. -/
theorem wordInput_selected {s t : State} {word : List Byte} {i : Instr} (hd : decodeWord s.config.start word = .ok i)
    (hs : selected s i = some t) : wordInput s word = .run i t := by
  simp [wordInput, hd, hs]

/-- A word whose selection does not hold has no step (R281). -/
theorem wordInput_unselected {s : State} {word : List Byte} {i : Instr} (hd : decodeWord s.config.start word = .ok i)
    (hn : selected s i = none) : wordInput s word = .answer (.next s) := by
  simp [wordInput, hd, hn]

/-- Nothing presents a call of the driver, or a decode pass, to the block (R183, R286). -/
theorem triggerOf_driverCalls {i : Instr} (h : driverCalls i = true) (start : Byte) : triggerOf start i = .never := by
  unfold driverCalls at h
  split at h
  case h_9 => cases h
  all_goals rfl

theorem selected_driverCalls (s : State) {i : Instr} (h : driverCalls i = true) : selected s i = none := by
  simp [selected, triggerOf_driverCalls h]

/-- A byte given to a receiver that waits for one, and whose device holds none, is taken at once (R69, R111). -/
theorem present_rxByte_waiting {s : State} {c : ChanId} {ch : Chan} (hc : s.chans[c]? = some ch)
    (hp : ch.sesPhase = .receive) (hr : ch.ctl = .recvRead) (hx : ch.rxs = []) (b : Byte) :
    present s (.rxByte c b) = .run (decodeRx s.config.start ch.rxState c (.byte b)) (s.setChan c ch) := by
  have htaken : s.setChan c { ch with rxs := [] } = s.setChan c ch := by rw [← hx]
  simpa [present, rxInput, Plan.onChan, Plan.ofOption, arbitrateRx, hc, hp, hr, hx] using htaken

/-- Settles O57: a step carries out what its stimulus plans (`step_of_script`), and each clause says what that is. -/
theorem stepRunsOperation : Obligations.StepRunsOperation := by
  intro s rest
  refine ⟨fun σ i s' hs hp => ?_, fun word i s' hs hd hsel => ?_, fun c ch b hs hc hp hr hx => ?_,
    fun word i hs hd hi => ?_, fun tag body hs => ?_⟩ <;> rw [step_of_script hs]
  · exact congrArg Plan.carryOut hp
  · exact congrArg Plan.carryOut (wordInput_selected (s := { s with script := rest }) hd hsel)
  · exact congrArg Plan.carryOut (present_rxByte_waiting (s := { s with script := rest }) hc hp hr hx b)
  · exact congrArg Plan.carryOut (wordInput_unselected (s := { s with script := rest }) hd (selected_driverCalls _ hi))
  · rfl

end Sys2Proof.Machine

/-! SUPPORT. The varints of the field stream (spec/30_encoding.md R97): what a run of seven-bit groups reads as, and that
`varint` writes the shortest run of its number. -/

namespace Sys2Proof.Machine

/-! ## Reading groups -/

/-- Bytes with bit 7 set and then one without read as the sum of their groups. -/
theorem readGroups_run {cs : List Byte} {last : Byte} (hc : ∀ b ∈ cs, 128 ≤ b.toNat) (hl : last.toNat < 128)
    (rest : List Byte) {fuel : Nat} (hf : cs.length ≤ fuel) :
    readGroups (fuel + 1) (cs ++ last :: rest) = some (groupValue (cs ++ [last]), cs.length + 1) := by
  induction cs generalizing fuel with
  | nil => simp [readGroups, groupValue, hl, Nat.mod_eq_of_lt hl]
  | cons b cs ih =>
    obtain ⟨fuel, rfl⟩ := Nat.exists_eq_add_one_of_ne_zero (Nat.ne_zero_of_lt hf)
    have hb : ¬ b.toNat < 128 := Nat.not_lt.2 (hc b (by simp))
    have htail := ih (fun x hx => hc x (by simp [hx])) (Nat.le_of_succ_le_succ hf)
    rw [List.cons_append, readGroups, if_neg hb, htail]
    rfl

/-- A run that never clears bit 7, to the end of the bytes or of the groups a varint may have, does not read. -/
theorem readGroups_unended {cs : List Byte} (hc : ∀ b ∈ cs, 128 ≤ b.toNat) {rest : List Byte} {fuel : Nat}
    (h : rest = [] ∨ fuel ≤ cs.length) : readGroups fuel (cs ++ rest) = none := by
  induction fuel generalizing cs with
  | zero => rfl
  | succ fuel ih =>
    cases cs with
    | nil =>
      obtain rfl : rest = [] := h.resolve_right (by simp)
      rfl
    | cons b cs =>
      have hb : ¬ b.toNat < 128 := Nat.not_lt.2 (hc b (by simp))
      have htail := ih (fun x hx => hc x (by simp [hx])) (h.imp_right Nat.le_of_succ_le_succ)
      rw [List.cons_append, readGroups, if_neg hb, htail]
      rfl

/-- `n` groups hold less than `128 ^ n`, and there is at least one. -/
theorem readGroups_bound {fuel : Nat} {bs : List Byte} {v n : Nat} (h : readGroups fuel bs = some (v, n)) :
    0 < n ∧ v < 128 ^ n := by
  induction fuel generalizing bs v n with
  | zero => cases h
  | succ fuel ih =>
    cases bs with
    | nil => cases h
    | cons b bs =>
      by_cases hb : b.toNat < 128
      · obtain ⟨rfl, rfl⟩ : b.toNat = v ∧ 1 = n := by simpa [readGroups, hb] using h
        simpa using hb
      · obtain ⟨v', n', htail, rfl, rfl⟩ :
            ∃ v' n', readGroups fuel bs = some (v', n') ∧ b.toNat % 128 + 128 * v' = v ∧ n' + 1 = n := by
          simpa [readGroups, hb] using h
        have hv' := (ih htail).2
        exact ⟨Nat.succ_pos _, by rw [Nat.pow_succ]; omega⟩

/-! ## Reading varints -/

theorem readVarint_run {cs : List Byte} {last : Byte} (hc : ∀ b ∈ cs, 128 ≤ b.toNat) (hl : last.toNat < 128)
    (h : cs.length ≤ 9) (rest : List Byte) :
    readVarint (cs ++ last :: rest) = some (groupValue (cs ++ [last]) % 2 ^ 64, cs.length + 1) := by
  rw [readVarint, readGroups_run hc hl rest h]
  rfl

theorem readVarint_unended {cs : List Byte} (hc : ∀ b ∈ cs, 128 ≤ b.toNat) {rest : List Byte}
    (h : rest = [] ∨ 10 ≤ cs.length) : readVarint (cs ++ rest) = none := by
  simp [readVarint, readGroups_unended hc h]

/-- A number that reads from `n` bytes is below `128 ^ n`; the cut at bit 63 only lowers it. -/
theorem readVarint_bound {bs : List Byte} {v n : Nat} (h : readVarint bs = some (v, n)) : 0 < n ∧ v < 128 ^ n := by
  obtain ⟨w, hg, rfl⟩ : ∃ w, readGroups 10 bs = some (w, n) ∧ w % 2 ^ 64 = v := by simpa [readVarint] using h
  obtain ⟨hn, hw⟩ := readGroups_bound hg
  exact ⟨hn, Nat.lt_of_le_of_lt (Nat.mod_le ..) hw⟩

/-! ## Writing varints -/

/-- A number of more than one group has a further group to come, and what is left of it fits the groups left. -/
theorem div_lt_groups {v n : Nat} (h : ¬ v < 128) (hv : v < 128 ^ (n + 1)) : 0 < n ∧ v / 128 < 128 ^ n :=
  ⟨Nat.pos_of_ne_zero fun h0 => h (by simpa [h0] using hv), Nat.div_lt_of_lt_mul (by rwa [Nat.pow_succ'] at hv)⟩

/-- A number below `128 ^ fuel` is written as a run of its own groups. -/
theorem varintBytes_run {fuel v : Nat} (hv : v < 128 ^ fuel) (hf : 0 < fuel) :
    ∃ cs last, varintBytes fuel v = cs ++ [last] ∧ cs.length < fuel ∧ (∀ b ∈ cs, 128 ≤ b.toNat) ∧ last.toNat < 128 ∧
      groupValue (cs ++ [last]) = v := by
  induction fuel generalizing v with
  | zero => cases hf
  | succ fuel ih =>
    by_cases h : v < 128
    · have ht : (BitVec.ofNat 8 v).toNat = v := Nat.mod_eq_of_lt (by omega)
      refine ⟨[], BitVec.ofNat 8 v, by simp [varintBytes, h], hf, by simp, by omega, ?_⟩
      simp only [List.nil_append, groupValue, ht]
      omega
    · obtain ⟨hfuel, hrest⟩ := div_lt_groups h hv
      obtain ⟨cs, last, he, hlen, hcs, hlast, hval⟩ := ih hrest hfuel
      have ht : (BitVec.ofNat 8 (v % 128 + 128)).toNat = v % 128 + 128 := Nat.mod_eq_of_lt (by omega)
      refine ⟨BitVec.ofNat 8 (v % 128 + 128) :: cs, last, by simp [varintBytes, h, he], by simpa using hlen, ?_, hlast, ?_⟩
      · rintro b (_ | ⟨_, hb⟩)
        · omega
        · exact hcs b hb
      · simp only [List.cons_append, groupValue, hval, ht]
        omega

/-- A number below `128 ^ n` is written in at most `n` bytes. -/
theorem varintBytes_length_le {v n : Nat} (hv : v < 128 ^ n) (hn : 0 < n) (fuel : Nat) :
    (varintBytes fuel v).length ≤ n := by
  induction fuel generalizing v n with
  | zero => exact Nat.zero_le n
  | succ fuel ih =>
    by_cases h : v < 128
    · simp only [varintBytes, h, if_true]
      exact hn
    · obtain ⟨n, rfl⟩ := Nat.exists_eq_add_one_of_ne_zero hn.ne'
      obtain ⟨hn', hrest⟩ := div_lt_groups h hv
      simpa [varintBytes, h] using ih hrest hn'

/-- `varint` of a 64-bit number (R97): bit 7 set on all bytes but the last, at most ten of them, and its groups sum up to
the number. -/
theorem varint_run {v : Nat} (hv : v < 2 ^ 64) :
    ∃ cs last, varint v = cs ++ [last] ∧ cs.length ≤ 9 ∧ (∀ b ∈ cs, 128 ≤ b.toNat) ∧ last.toNat < 128 ∧
      groupValue (cs ++ [last]) = v := by
  obtain ⟨cs, last, he, hlen, h⟩ := varintBytes_run (fuel := 10) (v := v) (by omega) (by omega)
  exact ⟨cs, last, he, by omega, h⟩

/-- A varint reads back, whatever follows it. -/
theorem readVarint_varint {v : Nat} (hv : v < 2 ^ 64) (rest : List Byte) :
    readVarint (varint v ++ rest) = some (v, (varint v).length) := by
  obtain ⟨cs, last, he, hlen, hcs, hlast, hval⟩ := varint_run hv
  have hread := readVarint_run hcs hlast hlen rest
  rw [hval, Nat.mod_eq_of_lt hv] at hread
  simpa [he] using hread

/-- No bytes that read as a number are fewer than its varint's. -/
theorem varint_shortest {bs : List Byte} {v n : Nat} (h : readVarint bs = some (v, n)) : (varint v).length ≤ n := by
  obtain ⟨hn, hv⟩ := readVarint_bound h
  exact varintBytes_length_le hv hn 10

/-- Settles O4, by what a run of groups reads as (`readVarint_run`, `readVarint_unended`) and by the run that `varint`
writes (`varint_run`). -/
theorem varintCoding : Obligations.VarintCoding := by
  refine ⟨fun v rest hv => ?_, fun cs rest last hc hl h => readVarint_run hc hl h rest, fun cs hc => ?_,
    fun cs rest hc h => readVarint_unended hc (.inr h)⟩
  · obtain ⟨cs, last, he, hlen, hcs, hlast, -⟩ := varint_run hv
    refine ⟨readVarint_varint hv rest, ?_, ?_, ?_, ?_, fun bs n h => varint_shortest h⟩ <;> rw [he]
    · simp
    · simpa using Nat.lt_succ_of_le hlen
    · simpa using hcs
    · simpa using hlast
  · simpa using readVarint_unended hc (.inl rfl)

/-! ## Keys -/

@[simp] theorem keyField_keyOf (n : Nat) (w : BitVec 3) : keyField (keyOf n w) = n := by
  unfold keyField keyOf
  have := w.isLt
  omega

@[simp] theorem keyWire_keyOf (n : Nat) (w : BitVec 3) : keyWire (keyOf n w) = w := by
  apply BitVec.eq_of_toNat_eq
  have := w.isLt
  simp only [keyWire, keyOf, BitVec.toNat_ofNat]
  omega

end Sys2Proof.Machine

/-! SUPPORT. The scan of pass 1 (spec/43_envelope_codec.md R178, R179): what it finds depends on the bytes that are left
alone, and its position is counted from where it started. -/

namespace Sys2Proof.Machine

/-- What pass 1 found, with `d` more bytes in front of it. -/
def foundAfter (d : Nat) (found : Variant × Nat × BitVec 3) : Variant × Nat × BitVec 3 :=
  (found.1, d + found.2.1, found.2.2)

/-- A field with an unknown number, its value inside the payload, is passed over. -/
theorem scanFields_skip {k : Config} {bs : List Byte} {key n m : Nat} (hr : readVarint bs = some (key, n))
    (h0 : keyField key ≠ 0) (hv : variantOf k (keyField key) = none)
    (hs : skipField (keyWire key) (bs.drop n) = some m) (fuel pos : Nat) :
    scanFields k (fuel + 1) pos bs = scanFields k fuel (pos + n + m) ((bs.drop n).drop m) := by
  cases bs with
  | nil => cases hr
  | cons b bs => simp [scanFields, hr, h0, hv, hs]

/-- The scan finds in what is left what it would find there alone, further on: neither the position it counts from nor a
bound beyond the bytes left changes it. -/
theorem scanFields_further (k : Config) {fuel fuel' pos d : Nat} {bs : List Byte} (hf : bs.length < fuel)
    (hf' : bs.length < fuel') :
    scanFields k fuel (d + pos) bs = (scanFields k fuel' pos bs).map (foundAfter d) := by
  induction fuel generalizing fuel' pos bs with
  | zero => cases hf
  | succ fuel ih =>
    obtain ⟨fuel', rfl⟩ := Nat.exists_eq_add_one_of_ne_zero (Nat.ne_zero_of_lt hf')
    cases bs with
    | nil => rfl
    | cons b bs =>
      cases hr : readVarint (b :: bs) with
      | none => simp [scanFields, hr]
      | some r =>
        obtain ⟨key, n⟩ := r
        by_cases h0 : keyField key = 0
        · simp [scanFields, hr, h0]
        · cases hv : variantOf k (keyField key) with
          | some v => simp [scanFields, hr, h0, hv, foundAfter, Nat.add_assoc]
          | none =>
            cases hs : skipField (keyWire key) ((b :: bs).drop n) with
            | none => simp [scanFields, hr, h0, hv, hs]
            | some m =>
              have hn := (readVarint_bound hr).1
              have hlen : (((b :: bs).drop n).drop m).length ≤ bs.length := by
                simp only [List.length_drop, List.length_cons]
                omega
              simp only [List.length_cons] at hf hf'
              rw [scanFields_skip hr h0 hv hs, scanFields_skip hr h0 hv hs, Nat.add_assoc d, Nat.add_assoc d]
              exact ih (by omega) (by omega)

/-- Settles O7: the field is skipped (`scanFields_skip`), and from what follows it the scan goes on as it would on that
alone (`scanFields_further`). -/
theorem unknownFieldsSkipped : Obligations.UnknownFieldsSkipped := by
  intro k n w val rest hn hv hkey hskip
  have hread := readVarint_varint hkey (val ++ rest)
  have hlen := (readVarint_bound hread).1
  calc discriminate k (varint (keyOf n w) ++ (val ++ rest))
      = scanFields k (varint (keyOf n w) ++ (val ++ rest)).length
          ((varint (keyOf n w)).length + val.length + 0) rest := by
        rw [discriminate, scanFields_skip hread (by simpa using hn) (by simpa using hv) (by simpa using hskip)]
        simp
    _ = (discriminate k rest).map (foundAfter ((varint (keyOf n w)).length + val.length)) :=
        scanFields_further k (by simp only [List.length_append]; omega) (Nat.lt_succ_self _)

end Sys2Proof.Machine

/-! SUPPORT. Which operation a byte, a word or a table word is (spec/30_encoding.md R98, R110, R111). -/

namespace Sys2Proof.Machine

/-- Settles O1: the one row of `decodeRx` for each state and event. -/
theorem receiverOperationMap : Obligations.ReceiverOperationMap := by
  intro start b c
  exact ⟨if_pos rfl, fun hb => if_neg hb, rfl, rfl, rfl, rfl, rfl, rfl, rfl, fun _ hst => if_neg hst,
    fun _ hst => if_neg hst⟩

/-- Settles O2, by running the decoder on each word. -/
theorem writtenWordsDecode : Obligations.WrittenWordsDecode := by
  unfold Obligations.WrittenWordsDecode
  decide

end Sys2Proof.Machine

/-! SUPPORT. The wire frame (spec/30_encoding.md R90, R91): which byte stands at which offset, and the row FRAME, which
presents one (R112). -/

namespace Sys2Proof.Machine

@[simp] theorem wireFrame_length (start seq msgid : Byte) (payload : List Byte) (crc : Byte) :
    (wireFrame start seq msgid payload crc).length = 5 + payload.length := by
  simp [wireFrame, Nat.add_comm 5]

theorem wireFrame_payload (start seq msgid crc : Byte) {payload : List Byte} {i : Nat} (h : i < payload.length) :
    (wireFrame start seq msgid payload crc)[4 + i]? = payload[i]? := by
  simp [wireFrame, Nat.add_comm 4 i, List.getElem?_append_left h]

theorem wireFrame_crc (start seq msgid : Byte) (payload : List Byte) (crc : Byte) :
    (wireFrame start seq msgid payload crc)[4 + payload.length]? = some crc := by
  simp [wireFrame, Nat.add_comm 4]

/-- The bytes a frame's CRC covers: all between the start marker and the CRC (R91). -/
theorem wireFrame_covered (start seq msgid : Byte) (payload : List Byte) (crc : Byte) :
    ((wireFrame start seq msgid payload crc).drop 1).take (3 + payload.length) =
      seq :: msgid :: BitVec.ofNat 8 payload.length :: payload := by
  simp [wireFrame, Nat.add_comm 3]

/-- Without a final XOR the CRC byte of a frame is the accumulator (R9, R91). -/
theorem frameCrc_eq_running {k : Config} (h : k.crcXorout = 0) (seq msgid : Byte) (payload : List Byte) :
    frameCrc k seq msgid payload =
      crc8Block k k.crcInit (seq :: msgid :: BitVec.ofNat 8 payload.length :: payload) := by
  simp [frameCrc, crcFinal, frameRunning, h]

/-- Settles O5, offset by offset of `wireFrame`. -/
theorem frameLayout : Obligations.FrameLayout := by
  intro k seq msgid payload hlen hxor
  have hcount : (BitVec.ofNat 8 payload.length).toNat = payload.length := Nat.mod_eq_of_lt (by omega)
  refine ⟨wireFrame_length .., rfl, rfl, rfl, rfl, hcount, fun i hi => wireFrame_payload _ _ _ _ hi, ?_⟩
  rw [frameBytes, wireFrame_crc, wireFrame_covered, frameCrc_eq_running hxor]

/-- Settles O51: the row FRAME on a channel that exists puts the bytes of `wireFrame` behind what the device holds. -/
theorem framePresented : Obligations.FramePresented :=
  fun _ _ _ _ _ _ _ hc => State.onChan_some hc _

end Sys2Proof.Machine

/-! SUPPORT. The CRC (spec/40_crc.md R121 to R127): the step of a polynomial is linear, and one to one where the
polynomial's bit 0 is set; a block folds piece by piece, and a step one to one in each operand makes the block CRC one
to one in the running value and in each byte. -/

namespace Sys2Proof.Machine

/-! ## The step of a polynomial -/

theorem crcShift_xor (p x y : Byte) : crcShift p (x ^^^ y) = crcShift p x ^^^ crcShift p y := by
  rw [crcShift, BitVec.msb_xor, BitVec.shiftLeft_xor_distrib, crcShift, crcShift]
  cases x.msb <;> cases y.msb
  case false.false => rfl
  case false.true => exact BitVec.xor_assoc ..
  case true.false =>
    change (x <<< 1 ^^^ y <<< 1) ^^^ p = (x <<< 1 ^^^ p) ^^^ y <<< 1
    ac_rfl
  case true.true =>
    calc x <<< 1 ^^^ y <<< 1
        = (x <<< 1 ^^^ y <<< 1) ^^^ (p ^^^ p) := by simp
      _ = (x <<< 1 ^^^ p) ^^^ (y <<< 1 ^^^ p) := by ac_rfl

/-- The bit shifted out comes back at bit 0, where the polynomial's bit 0 is set. -/
theorem crcShift_getLsbD_zero {p : Byte} (hp : p.getLsbD 0 = true) (r : Byte) :
    (crcShift p r).getLsbD 0 = r.msb := by
  cases hr : r.msb <;> simp [crcShift, hr, hp]

theorem crcShift_injective {p : Byte} (hp : p.getLsbD 0 = true) : Function.Injective (crcShift p) := by
  intro x y h
  have hmsb : x.msb = y.msb := by rw [← crcShift_getLsbD_zero hp x, h, crcShift_getLsbD_zero hp]
  have hshift : x <<< 1 = y <<< 1 := by
    unfold crcShift at h
    rw [hmsb] at h
    split at h
    · exact (BitVec.xor_left_inj p).mp h
    · exact h
  rw [BitVec.msb_eq_decide, BitVec.msb_eq_decide, decide_eq_decide] at hmsb
  bv_omega

theorem repeatByte_xor {f : Byte → Byte} (hf : ∀ x y, f (x ^^^ y) = f x ^^^ f y) (n : Nat) (x y : Byte) :
    repeatByte f n (x ^^^ y) = repeatByte f n x ^^^ repeatByte f n y := by
  induction n generalizing x y with
  | zero => rfl
  | succ n ih => rw [repeatByte, hf, ih]; rfl

theorem repeatByte_injective {f : Byte → Byte} (hf : Function.Injective f) (n : Nat) :
    Function.Injective (repeatByte f n) := by
  induction n with
  | zero => exact Function.injective_id
  | succ n ih => exact ih.comp hf

/-- The step is linear over XOR (R127). -/
theorem crcStep_xor (p r1 r2 b1 b2 : Byte) :
    crcStep (.poly p true) (r1 ^^^ r2) (b1 ^^^ b2) = crcStep (.poly p true) r1 b1 ^^^ crcStep (.poly p true) r2 b2 := by
  have hpairs : (r1 ^^^ r2) ^^^ (b1 ^^^ b2) = (r1 ^^^ b1) ^^^ (r2 ^^^ b2) := by ac_rfl
  rw [crcStep, hpairs]
  exact repeatByte_xor (crcShift_xor p) 8 _ _

/-- A step with P1 (R122): one to one in the byte, so onto as well. -/
theorem crcStep_bijective_byte {p : Byte} (hp : p.getLsbD 0 = true) (r : Byte) :
    Function.Bijective fun b => crcStep (.poly p true) r b :=
  Finite.injective_iff_bijective.mp
    ((repeatByte_injective (crcShift_injective hp) 8).comp fun _ _ => (BitVec.xor_right_inj r).mp)

/-- A step with P2 (R122): one to one in the running value, so onto as well. -/
theorem crcStep_bijective_running {p : Byte} (hp : p.getLsbD 0 = true) (b : Byte) :
    Function.Bijective fun r => crcStep (.poly p true) r b :=
  Finite.injective_iff_bijective.mp
    ((repeatByte_injective (crcShift_injective hp) 8).comp fun _ _ => (BitVec.xor_left_inj b).mp)

/-- Settles O9: bit 0 of the default polynomial is set, and the step is a function of the XOR of its operands. -/
theorem crcStepLaws : Obligations.CrcStepLaws := by
  have hbit : (0x07 : Byte).getLsbD 0 = true := rfl
  refine ⟨⟨crcStep_bijective_byte hbit, crcStep_bijective_running hbit⟩, fun r1 r2 b1 b2 => ⟨crcStep_xor .., ?_⟩⟩
  simp [crcStep]

/-! ## The fold -/

@[simp] theorem crc8Block_nil (k : Config) (r : Byte) : crc8Block k r [] = r := rfl

@[simp] theorem crc8Block_cons (k : Config) (r b : Byte) (buf : List Byte) :
    crc8Block k r (b :: buf) = crc8Block k (crc8Update k r b) buf := rfl

@[simp] theorem crc8Block_append (k : Config) (r : Byte) (buf buf' : List Byte) :
    crc8Block k r (buf ++ buf') = crc8Block k (crc8Block k r buf) buf' :=
  List.foldl_append

/-- Settles O8: a result for the driver is put out and resumes nobody (`State.ret_driver`); the fold's equations. -/
theorem crcOperationsComplete : Obligations.CrcOperationsComplete := by
  intro s r b buf
  refine ⟨?update, ?block, crc8Block_nil .., crc8Block_append _ _ _, crc8Block_cons ..⟩
  case update => exact congrArg Host.Outcome.next (State.ret_driver ..)
  case block => exact congrArg Host.Outcome.next (State.ret_driver ..)

/-! ## One altered byte -/

/-- A step with P2 folds different running values to different ones. -/
theorem crc8Block_injective {k : Config} (h : ∀ b, Function.Injective fun r => crc8Update k r b) (buf : List Byte) :
    Function.Injective fun r => crc8Block k r buf := by
  induction buf with
  | nil => exact Function.injective_id
  | cons b buf ih => exact ih.comp (h b)

/-- P1 tells the two bytes apart, P2 keeps what follows apart. -/
theorem crc8Block_ne_of_byte_ne {k : Config} (hbyte : ∀ r, Function.Injective fun b => crc8Update k r b)
    (hrun : ∀ b, Function.Injective fun r => crc8Update k r b) (init x y : Byte) (pre post : List Byte)
    (hxy : x ≠ y) : crc8Block k init (pre ++ x :: post) ≠ crc8Block k init (pre ++ y :: post) := by
  simp only [crc8Block_append, crc8Block_cons]
  exact (crc8Block_injective hrun post).ne ((hbyte _).ne hxy)

theorem crcFinal_injective (k : Config) : Function.Injective (crcFinal k) :=
  fun _ _ => (BitVec.xor_left_inj _).mp

/-- Settles O10: sequence, message-id and each payload byte are one byte each of the bytes a frame's CRC covers. -/
theorem crcDetectsOneByte : Obligations.CrcDetectsOneByte := by
  intro k hbyte hrun
  have hblock := crc8Block_ne_of_byte_ne hbyte hrun
  refine ⟨hblock, fun seq seq' msgid payload hne => ?_, fun seq msgid msgid' payload hne => ?_,
    fun seq msgid pre x y post hne => ?_⟩
  · exact (crcFinal_injective k).ne (hblock k.crcInit _ _ [] _ hne)
  · exact (crcFinal_injective k).ne (hblock k.crcInit _ _ [seq] _ hne)
  · have hlen : (pre ++ x :: post).length = (pre ++ y :: post).length := by simp
    rw [frameCrc, frameCrc, hlen]
    exact (crcFinal_injective k).ne (hblock k.crcInit _ _ (seq :: msgid :: _ :: pre) _ hne)

end Sys2Proof.Machine

/-! SUPPORT. The receiver's operations, each said once as an equation (spec/41_rx_transport.md R131 to R142): one without a
result writes the registers of `byteTaken`, one with a result is `State.rxReturn`. -/

namespace Sys2Proof.Machine

/-! ## The registers after a byte that gives no result -/

/-- The receiver after `RX.START` (R131). -/
def Chan.startTaken (k : Config) (ch : Chan) : Chan := { ch with rxCrc := k.crcInit, rxState := .seq }

/-- The receiver after `RX.SEQ` (R132). -/
def Chan.seqTaken (k : Config) (ch : Chan) (b : Byte) : Chan :=
  { ch with rxSeq := b, rxCrc := crc8Update k ch.rxCrc b, rxState := .msgid }

/-- The receiver after `RX.MSGID` (R133). -/
def Chan.msgidTaken (k : Config) (ch : Chan) (b : Byte) : Chan :=
  { ch with rxMsgid := b, rxCrc := crc8Update k ch.rxCrc b, rxState := .len }

/-- The receiver after `RX.LEN` (R134). -/
def Chan.lenTaken (k : Config) (ch : Chan) (b : Byte) : Chan :=
  { ch with
    rxLen := b
    rxCrc := crc8Update k ch.rxCrc b
    rxCnt := 0
    rxState := if b = 0 then .crc else .payload }

/-- The receiver after `RX.PAYLOAD` at an index inside its buffer (R135). -/
def Chan.payloadTaken (k : Config) (ch : Chan) (b : Byte) : Chan :=
  { ch with
    rxBuf := Memory.write ch.rxBuf ch.rxCnt b
    rxCrc := crc8Update k ch.rxCrc b
    rxCnt := ch.rxCnt + 1
    rxState := if ch.rxCnt + 1 = ch.rxLen.toNat then .crc else ch.rxState }

/-- The receiver after the byte `b`, taken as its state says (R111); in `CRC`, where a byte gives a result, it is left as
it is. -/
def Chan.byteTaken (k : Config) (ch : Chan) (b : Byte) : Chan :=
  match ch.rxState with
  | .waitStart => if b = k.start then ch.startTaken k else ch
  | .seq => ch.seqTaken k b
  | .msgid => ch.msgidTaken k b
  | .len => ch.lenTaken k b
  | .payload => ch.payloadTaken k b
  | .crc => ch

/-! ## The operations without a result -/

section Quiet

variable {s : State} {c : ChanId} {ch : Chan} (hc : s.chans[c]? = some ch)
include hc

theorem exec_rxStart : exec (.rxStart c) s = .next (s.setChan c (ch.startTaken s.config).rxContinue) :=
  State.onChan_some hc _

theorem exec_rxDiscard (b : Byte) : exec (.rxDiscard c b) s = .next (s.setChan c ch.rxContinue) :=
  State.onChan_some hc _

theorem exec_rxSeq (b : Byte) : exec (.rxSeq c b) s = .next (s.setChan c (ch.seqTaken s.config b).rxContinue) :=
  State.onChan_some hc _

theorem exec_rxMsgid (b : Byte) :
    exec (.rxMsgid c b) s = .next (s.setChan c (ch.msgidTaken s.config b).rxContinue) :=
  State.onChan_some hc _

theorem exec_rxLen (b : Byte) : exec (.rxLen c b) s = .next (s.setChan c (ch.lenTaken s.config b).rxContinue) :=
  State.onChan_some hc _

/-- A count below the length is inside the buffer. -/
theorem exec_rxPayload (hcnt : ch.rxCnt < ch.rxLen.toNat) (b : Byte) :
    exec (.rxPayload c b) s = .next (s.setChan c (ch.payloadTaken s.config b).rxContinue) := by
  have hlt : ch.rxCnt < 255 := by
    have := ch.rxLen.isLt
    omega
  exact (State.onChan_some hc _).trans (if_pos hlt)

/-- A byte outside `CRC` gives no result (R143). -/
theorem exec_byteTaken (hst : ch.rxState ≠ .crc) (hcnt : ch.rxState = .payload → ch.rxCnt < ch.rxLen.toNat) (b : Byte) :
    exec (decodeRx s.config.start ch.rxState c (.byte b)) s =
      .next (s.setChan c (ch.byteTaken s.config b).rxContinue) := by
  unfold Chan.byteTaken
  cases h : ch.rxState with
  | waitStart =>
    unfold decodeRx
    dsimp only
    split
    · exact exec_rxStart hc
    · exact exec_rxDiscard hc b
  | seq => exact exec_rxSeq hc b
  | msgid => exact exec_rxMsgid hc b
  | len => exact exec_rxLen hc b
  | payload => exact exec_rxPayload hc (hcnt h) b
  | crc => exact absurd h hst

end Quiet

/-! ## What they leave alone -/

/-- A channel without its receiver's registers. -/
def Chan.receiverless (ch : Chan) : Chan :=
  { ch with rxState := .waitStart, rxSeq := 0, rxMsgid := 0, rxLen := 0, rxCnt := 0, rxCrc := 0, rxBuf := [] }

theorem Chan.receiverless_rxContinue (ch : Chan) :
    ch.rxContinue.receiverless.placeless = ch.receiverless.placeless := by
  obtain ⟨ctl, e⟩ := ch.rxContinue_eq
  rw [e]
  rfl

theorem Chan.rxContinue_ctl (ch : Chan) : ch.rxContinue.ctl = if ch.ctl = .recvRead then .recvTop else ch.ctl := by
  unfold Chan.rxContinue
  split
  · rename_i h
    rw [if_pos h]
  · rename_i h
    exact (if_neg h).symm

theorem othersKept_setChan (s : State) (c : ChanId) (ch : Chan) : OthersKept s (s.setChan c ch) c :=
  ⟨by simp, fun _ hd => State.setChan_get_ne s hd ch⟩

/-- Writing receiver registers alone, and going on with the pending `receive`, is a step without a result (R130). -/
theorem rxQuiet_setChan {s : State} {c : ChanId} {ch ch' : Chan} (hc : s.chans[c]? = some ch)
    (h : ch'.receiverless = ch.receiverless := by rfl) : RxQuiet s (s.setChan c ch'.rxContinue) c ch ch'.rxContinue := by
  have hplace : ch'.rxContinue.receiverless.placeless = ch.receiverless.placeless := by
    rw [ch'.receiverless_rxContinue, h]
  have hworker : WorkerKept ch ch'.rxContinue := by
    have kept : WorkerKept ch ch' :=
      ⟨(congrArg Chan.sesPhase h :), (congrArg Chan.sesSlot h :), (congrArg Chan.sesTermReq h :),
        (congrArg Chan.sesLastStatus h :)⟩
    simpa [WorkerKept] using kept
  have hctl : ch'.ctl = ch.ctl := (congrArg Chan.ctl h :)
  refine ⟨State.setChan_get_self hc _, othersKept_setChan s c _, ⟨⟨rfl, rfl, rfl, rfl, rfl⟩, rfl, rfl, rfl, rfl⟩, rfl,
    senderKept_of_placeless (a := ch.receiverless) (b := ch'.rxContinue.receiverless) hplace, hworker,
    (congrArg Chan.rxs hplace :), ?_⟩
  rw [Chan.rxContinue_ctl, hctl]

/-! ## The operations with a result -/

/-- The receiver of `c` goes to `st` and its `receive` returns `r`, after the signal `l` if there is one (R130). -/
def State.rxReturn (s : State) (c : ChanId) (ch : Chan) (st : RxState) (l : Option Level) (r : Result) : State :=
  { s.setChan c (Chan.resume { ch with rxState := st } (.result r)) with
    out := s.out ++ (l.toList.map .signal ++ [.result (.worker c) r]) }

@[simp] theorem State.rxReturn_config (s : State) (c : ChanId) (ch : Chan) (st : RxState) (l : Option Level) (r : Result) :
    (s.rxReturn c ch st l r).config = s.config := rfl

@[simp] theorem State.rxReturn_out (s : State) (c : ChanId) (ch : Chan) (st : RxState) (l : Option Level) (r : Result) :
    (s.rxReturn c ch st l r).out = s.out ++ (l.toList.map .signal ++ [.result (.worker c) r]) := rfl

theorem State.rxReturn_get {s : State} {c : ChanId} {dh : Chan} (hc : s.chans[c]? = some dh) (ch : Chan) (st : RxState)
    (l : Option Level) (r : Result) :
    (s.rxReturn c ch st l r).chans[c]? = some (Chan.resume { ch with rxState := st } (.result r)) :=
  State.setChan_get_self hc _

theorem State.rxReturn_setChan (s : State) (c : ChanId) (ch dh : Chan) (st : RxState) (l : Option Level) (r : Result) :
    (s.setChan c ch).rxReturn c dh st l r = s.rxReturn c dh st l r := by
  simp [State.rxReturn, State.setChan_setChan]

/-- What `RX.CRC` signals and returns (R136). -/
def Chan.verdict (k : Config) (ch : Chan) (b : Byte) : Level × Result :=
  if b = crcFinal k ch.rxCrc then (.normal, .rxOk ch.rxSeq ch.rxMsgid ch.rxLen ch.rxPayload) else (.fail, .rxFail .crc)

theorem Chan.verdict_match {k : Config} {ch : Chan} {b : Byte} (h : b = crcFinal k ch.rxCrc) :
    ch.verdict k b = (.normal, .rxOk ch.rxSeq ch.rxMsgid ch.rxLen ch.rxPayload) := if_pos h

theorem Chan.verdict_mismatch {k : Config} {ch : Chan} {b : Byte} (h : b ≠ crcFinal k ch.rxCrc) :
    ch.verdict k b = (.fail, .rxFail .crc) := if_neg h

section Returning

variable {s : State} {c : ChanId} {ch : Chan} (hc : s.chans[c]? = some ch)
include hc

/-- The receiver's state is written and a result returned to its worker (R284). -/
theorem ret_eq_rxReturn (st : RxState) (r : Result) :
    (s.setChan c { ch with rxState := st }).ret (.worker c) r = s.rxReturn c ch st none r := by
  rw [State.ret_worker (State.setChan_get_self hc _), State.setChan_setChan]
  rfl

/-- The same after a signal (R283). -/
theorem signal_ret_eq_rxReturn (st : RxState) (l : Level) (r : Result) :
    ((s.setChan c { ch with rxState := st }).signal l).ret (.worker c) r = s.rxReturn c ch st (some l) r := by
  have hc' : ((s.setChan c { ch with rxState := st }).signal l).chans[c]? = some { ch with rxState := st } :=
    State.setChan_get_self hc _
  rw [State.ret_worker hc']
  simp [State.rxReturn, State.setChan, State.signal, State.output]

theorem raise_rxFail_eq_rxReturn (cause : RxCause) :
    s.raise (.rxFail c cause) = s.rxReturn c ch .waitStart (some .fail) (.rxFail cause) := by
  rw [State.raise_rxFail hc]
  exact signal_ret_eq_rxReturn hc .waitStart .fail _

theorem rxNoData_eq : rxNoData c s = .next (s.rxReturn c ch (idleState s.config ch.rxState) none .rxNoData) := by
  rw [rxNoData, State.onChan_some hc, ret_eq_rxReturn hc]

theorem rxMidframe_eq : rxMidframe c s = .next (s.rxReturn c ch .waitStart (some .fail) (.rxFail .midframe)) := by
  rw [rxMidframe, State.onChan_some hc, raise_rxFail_eq_rxReturn hc]

theorem exec_rxCrc (b : Byte) :
    exec (.rxCrc c b) s =
      .next (s.rxReturn c ch .waitStart (some (ch.verdict s.config b).1) (ch.verdict s.config b).2) := by
  refine (State.onChan_some hc _).trans ?_
  by_cases h : b = crcFinal s.config ch.rxCrc
  · rw [if_pos h, Chan.verdict_match h, signal_ret_eq_rxReturn hc]
  · rw [if_neg h, Chan.verdict_mismatch h, raise_rxFail_eq_rxReturn hc]

/-- `RX.RECEIVE` that sees the termination flag outside `PAYLOAD` (R142). -/
theorem exec_rxReceive_terminated (ht : ch.sesTermReq = true) (hst : ch.rxState ≠ .payload) :
    exec (.rxReceive c) s = .next (s.rxReturn c ch ch.rxState none .rxNoData) := by
  refine (State.onChan_some hc _).trans ?_
  rw [if_pos (by simp [ht, hst]), State.ret_worker hc]
  rfl

/-- `RX.RECEIVE` that goes to the wait for one event (R142). -/
theorem exec_rxReceive_waits (h : ch.sesTermReq = false ∨ ch.rxState = .payload) :
    exec (.rxReceive c) s = .next (s.setChan c { ch with ctl := .recvRead }) := by
  refine (State.onChan_some hc _).trans (if_neg ?_)
  rcases h with h | h <;> simp [h]

end Returning

/-- The results of a `receive` (R130). -/
def Result.ofReceive : Result → Bool
  | .rxOk _ _ _ _ => true
  | .rxNoData => true
  | .rxFail _ => true
  | _ => false

theorem Chan.verdict_ofReceive (k : Config) (ch : Chan) (b : Byte) : (ch.verdict k b).2.ofReceive = true := by
  unfold Chan.verdict
  split <;> rfl

/-- A `receive`'s result moves a worker that is in its `receive`, and no other. -/
theorem Chan.resume_ctl_ofReceive (ch : Chan) {r : Result} (hr : r.ofReceive = true) :
    (ch.resume (.result r)).ctl = if ch.ctl = .recvRead ∨ ch.ctl = .recvTop then .recvDone r else ch.ctl := by
  cases hctl : ch.ctl with
  | recvTop => simp [Chan.resume, hctl]
  | recvRead => simp [Chan.resume, hctl]
  | _ => cases r <;> simp [Result.ofReceive] at hr <;> simp [Chan.resume, hctl]

/-- `State.rxReturn` with a `receive`'s result is a receiver step with that result (R130). -/
theorem rxReturns_rxReturn {s : State} {c : ChanId} {ch : Chan} (hc : s.chans[c]? = some ch) (st : RxState)
    (l : Option Level) {r : Result} (hr : r.ofReceive = true) :
    RxReturns s (s.rxReturn c ch st l r) c ch (Chan.resume { ch with rxState := st } (.result r)) l r :=
  ⟨State.rxReturn_get hc .., othersKept_setChan s c _, ⟨⟨rfl, rfl, rfl, rfl, rfl⟩, rfl, rfl, rfl, rfl⟩, rfl,
    by simp [RxRegsKept], fun _ => by simp,
    senderKept_of_placeless (a := { ch with rxState := st }) (Chan.placeless_resume _ _), by simp [WorkerKept], by simp,
    Chan.resume_ctl_ofReceive _ hr⟩

end Sys2Proof.Machine

/-! SUPPORT. The receiver's steps (spec/41_rx_transport.md R131 to R143): what each operation leaves in its registers, and
the transition table. -/

namespace Sys2Proof.Machine

/-! ## The single operations -/

/-- Settles O11: each of the four is a write of receiver registers alone (`rxQuiet_setChan`), read off field by field. -/
theorem rxHeaderSteps : Obligations.RxHeaderSteps := by
  intro s c ch b hc
  refine ⟨⟨_, _, exec_rxStart hc, rxQuiet_setChan hc, ?_⟩, ⟨_, _, exec_rxSeq hc b, rxQuiet_setChan hc, ?_⟩,
    ⟨_, _, exec_rxMsgid hc b, rxQuiet_setChan hc, ?_⟩, ⟨_, _, exec_rxDiscard hc b, rxQuiet_setChan hc, ?_⟩⟩
  · simp [Chan.startTaken, RxBufKept]
  · simp [Chan.seqTaken, RxBufKept]
  · simp [Chan.msgidTaken, RxBufKept]
  · exact receiverKept_of_registers ch.registers_rxContinue

/-- Settles O12: both are writes of receiver registers alone; the byte read back at the count, and at no other index, is
the one written. -/
theorem rxLengthAndPayloadSteps : Obligations.RxLengthAndPayloadSteps := by
  intro s c ch b hc
  refine ⟨⟨_, _, exec_rxLen hc b, rxQuiet_setChan hc, ?_⟩, fun hst hcnt hwf =>
    ⟨_, _, exec_rxPayload hc hcnt b, rxQuiet_setChan hc, ?_, fun i hi => ?_, ?_⟩⟩
  · simp [Chan.lenTaken, RxBufKept]
  · simpa [Chan.payloadTaken] using Memory.read_write_self hwf ch.rxCnt b
  · simpa [Chan.payloadTaken] using Memory.read_write_ne hwf hi b
  · simp [Chan.payloadTaken, hst]

/-- Settles O13: `RX.CRC` returns its verdict, and the verdict follows the comparison. -/
theorem rxCrcStep : Obligations.RxCrcStep := by
  intro s c ch b hc
  have hexec := exec_rxCrc hc b
  have hret := rxReturns_rxReturn hc .waitStart (some (ch.verdict s.config b).1) (ch.verdict_ofReceive s.config b)
  refine ⟨fun h => ?_, fun h => ?_, fun h => by simp [crcFinal, h]⟩
  · rw [Chan.verdict_match h] at hexec hret
    exact ⟨_, _, hexec, hret, by simp⟩
  · rw [Chan.verdict_mismatch h] at hexec hret
    exact ⟨_, _, hexec, hret, by simp⟩

/-- Settles O14: both are `rxNoData`. -/
theorem rxIdleSteps : Obligations.RxIdleSteps := by
  intro s c ch hc i hi
  have hexec : exec i s = rxNoData c s := by
    rcases List.mem_pair.mp hi with rfl | rfl <;> rfl
  refine ⟨_, _, hexec.trans (rxNoData_eq hc), rxReturns_rxReturn hc _ none rfl, fun h => ?_, fun h => ?_⟩
  · simp [idleState, h]
  · simp [idleState, h]

/-- Settles O15: both are `rxMidframe`. -/
theorem rxBulkFailures : Obligations.RxBulkFailures := by
  intro s c ch hc i hi
  have hexec : exec i s = rxMidframe c s := by
    rcases List.mem_pair.mp hi with rfl | rfl <;> rfl
  exact ⟨_, _, hexec.trans (rxMidframe_eq hc), rxReturns_rxReturn hc _ _ rfl, by simp⟩

/-- Settles O16: the two branches of the test, and that a worker whose read is pending has no operation. -/
theorem rxReceiveLoop : Obligations.RxReceiveLoop := by
  intro s c ch hc
  refine ⟨fun ht hst => ⟨_, _, exec_rxReceive_terminated hc ht hst, rxReturns_rxReturn hc _ none rfl, by simp⟩,
    exec_rxReceive_waits hc, fun hctl => ?_⟩
  simp [workerTurn, Plan.onChan, hc, workerOp, hctl, Plan.ofOption]

/-! ## The operation the state and the event select -/

/-- What the operation that R111 selects leaves: a byte taken without a result, or a result, each as the cell of R143
says. -/
inductive RxStep (s : State) (c : ChanId) (ch : Chan) : RxEvent → State → Prop where
  | quiet {b : Byte} (hst : ch.rxState ≠ .crc)
      (hcell : rxTable s.config ch (.byte b) = ((ch.byteTaken s.config b).rxState, none, none)) :
      RxStep s c ch (.byte b) (s.setChan c (ch.byteTaken s.config b).rxContinue)
  | returns {e : RxEvent} {st : RxState} {l : Option Level} {r : Result} (hst : st = .waitStart ∨ st = ch.rxState)
      (hcell : rxTable s.config ch e = (st, some r, l)) : RxStep s c ch e (s.rxReturn c ch st l r)

theorem rxTable_byteTaken (k : Config) {ch : Chan} (hst : ch.rxState ≠ .crc) (b : Byte) :
    rxTable k ch (.byte b) = ((ch.byteTaken k b).rxState, none, none) := by
  unfold rxTable Chan.byteTaken
  cases h : ch.rxState with
  | waitStart =>
    dsimp only
    split
    · rfl
    · rw [h]
  | payload => simp [Chan.payloadTaken, h]
  | crc => exact absurd h hst
  | _ => rfl

theorem rxTable_crc (k : Config) {ch : Chan} (hst : ch.rxState = .crc) (b : Byte) :
    rxTable k ch (.byte b) = (.waitStart, some (ch.verdict k b).2, some (ch.verdict k b).1) := by
  unfold Chan.verdict
  simp only [rxTable, hst]
  split <;> rfl

theorem rxTable_bulk (k : Config) {ch : Chan} {e : RxEvent} (he : e = .timeout ∨ e = .chReset)
    (hst : ch.rxState = .payload) : rxTable k ch e = (.waitStart, some (.rxFail .midframe), some .fail) := by
  unfold rxTable
  rw [hst]
  rcases he with rfl | rfl <;> rfl

theorem rxTable_idle (k : Config) {ch : Chan} {e : RxEvent} (he : e = .timeout ∨ e = .chReset)
    (hst : ch.rxState ≠ .payload) : rxTable k ch e = (idleState k ch.rxState, some .rxNoData, none) := by
  unfold rxTable
  cases h : ch.rxState with
  | payload => exact absurd h hst
  | _ => rcases he with rfl | rfl <;> rfl

theorem idleState_cases (k : Config) (st : RxState) : idleState k st = .waitStart ∨ idleState k st = st := by
  unfold idleState
  split
  · exact .inr rfl
  · exact .inl rfl

/-- A timeout and a reset, which the receiver takes alike (R137 to R140). -/
theorem exec_noByte {s : State} {c : ChanId} {ch : Chan} {e : RxEvent} (hc : s.chans[c]? = some ch)
    (he : e = .timeout ∨ e = .chReset) :
    ∃ t, exec (decodeRx s.config.start ch.rxState c e) s = .next t ∧ RxStep s c ch e t := by
  by_cases hst : ch.rxState = .payload
  · have hexec : exec (decodeRx s.config.start ch.rxState c e) s = rxMidframe c s := by
      rcases he with rfl | rfl <;> simp only [decodeRx, if_pos hst] <;> rfl
    exact ⟨_, hexec.trans (rxMidframe_eq hc), .returns (.inl rfl) (rxTable_bulk s.config he hst)⟩
  · have hexec : exec (decodeRx s.config.start ch.rxState c e) s = rxNoData c s := by
      rcases he with rfl | rfl <;> simp only [decodeRx, if_neg hst] <;> rfl
    exact ⟨_, hexec.trans (rxNoData_eq hc), .returns (idleState_cases _ _) (rxTable_idle s.config he hst)⟩

/-- The operation that R111 selects always answers, where the count is below the length in `PAYLOAD` (R26). -/
theorem exec_decodeRx {s : State} {c : ChanId} {ch : Chan} (hc : s.chans[c]? = some ch)
    (hcnt : ch.rxState = .payload → ch.rxCnt < ch.rxLen.toNat) (e : RxEvent) :
    ∃ t, exec (decodeRx s.config.start ch.rxState c e) s = .next t ∧ RxStep s c ch e t := by
  cases e with
  | byte b =>
    by_cases hst : ch.rxState = .crc
    · refine ⟨_, ?_, .returns (.inl rfl) (rxTable_crc s.config hst b)⟩
      rw [hst]
      exact exec_rxCrc hc b
    · exact ⟨_, exec_byteTaken hc hst hcnt b, .quiet hst (rxTable_byteTaken s.config hst b)⟩
  | timeout => exact exec_noByte hc (.inl rfl)
  | chReset => exact exec_noByte hc (.inr rfl)

/-- Settles O17: the selected operation's step (`exec_decodeRx`), whose two cases each carry the cell. -/
theorem rxTransitionTable : Obligations.RxTransitionTable := by
  intro s c ch e hc hcnt
  obtain ⟨t, ht, hstep⟩ := exec_decodeRx hc hcnt e
  cases hstep with
  | quiet hst hcell => exact ⟨_, _, ht, State.setChan_get_self hc _, by simp [hcell], by simp [hcell]⟩
  | returns hst hcell => exact ⟨_, _, ht, State.rxReturn_get hc .., by simp [hcell], by simp [hcell]⟩

end Sys2Proof.Machine

/-! SUPPORT. The agreement of a receiver's registers with its state (`Chan.rxInv`, spec/41_rx_transport.md R144): a byte
taken in its state keeps it, an operation that is not the receiver's leaves the receiver alone, and every other
operation that runs is selected by the receiver's state. -/

namespace Sys2Proof.Machine

/-! ## The agreement at one receiver -/

theorem Memory.readN_congr {m m' : Memory} (h : ∀ i, Memory.read m' i = Memory.read m i) (i n : Nat) :
    Memory.readN m' i n = Memory.readN m i n := by
  induction n generalizing i with
  | zero => rfl
  | succ n ih => rw [Memory.readN, h, ih, Memory.readN]

/-- The agreement speaks of the receiver alone. -/
theorem Chan.rxInv.congr {k : Config} {a b : Chan} (h : a.rxInv k) (hk : ReceiverKept a b) : b.rxInv k := by
  obtain ⟨hst, ⟨hseq, hmsgid, hlen, hcnt, hcrc⟩, hbuf⟩ := hk
  unfold Chan.rxInv Chan.rxPayload at h ⊢
  simpa only [hst, hseq, hmsgid, hlen, hcnt, hcrc, Memory.readN_congr hbuf] using h

theorem Chan.rxInv_of_waitStart (k : Config) {ch : Chan} (h : ch.rxState = .waitStart) : ch.rxInv k := by
  unfold Chan.rxInv
  rw [h]
  trivial

theorem Chan.rxInv.cnt_lt {k : Config} {ch : Chan} (h : ch.rxInv k) (hst : ch.rxState = .payload) :
    ch.rxCnt < ch.rxLen.toNat := by
  rw [Chan.rxInv, hst] at h
  exact h.2.1

/-- One more payload byte is folded behind the others. -/
theorem frameRunning_snoc (k : Config) (seq msgid len : Byte) (payload : List Byte) (b : Byte) :
    frameRunning k seq msgid len (payload ++ [b]) = crc8Update k (frameRunning k seq msgid len payload) b :=
  crc8Block_append k _ (seq :: msgid :: len :: payload) [b]

/-- What stands before the count, after a byte is written at it. -/
theorem Memory.readN_write_snoc {m : Memory} (h : Memory.wf m = true) (n : Nat) (b : Byte) :
    Memory.readN (Memory.write m n b) 0 (n + 1) = Memory.readN m 0 n ++ [b] := by
  rw [Memory.readN_succ, Memory.readN_write_outside h n b (.inr (by omega)), Nat.zero_add, Memory.read_write_self h]

theorem Chan.rxInv_lenTaken {k : Config} {ch : Chan} (hcrc : ch.rxCrc = crc8Block k k.crcInit [ch.rxSeq, ch.rxMsgid])
    (b : Byte) : (ch.lenTaken k b).rxInv k := by
  have hrun : crc8Update k ch.rxCrc b = frameRunning k ch.rxSeq ch.rxMsgid b [] := by rw [hcrc]; rfl
  by_cases hb : b = 0
  · subst hb
    exact ⟨rfl, hrun⟩
  · have hpos : 0 < b.toNat := Nat.pos_of_ne_zero fun h => hb (BitVec.eq_of_toNat_eq h)
    have hst : (ch.lenTaken k b).rxState = .payload := if_neg hb
    rw [Chan.rxInv, hst]
    exact ⟨hpos, hpos, hrun⟩

theorem Chan.rxInv_payloadTaken {k : Config} {ch : Chan} (hwf : Memory.wf ch.rxBuf = true) (hst : ch.rxState = .payload)
    (h : ch.rxInv k) (b : Byte) : (ch.payloadTaken k b).rxInv k := by
  rw [Chan.rxInv, hst] at h
  obtain ⟨hpos, hlt, hcrc⟩ := h
  have hrun : crc8Update k ch.rxCrc b =
      frameRunning k ch.rxSeq ch.rxMsgid ch.rxLen (Memory.readN (Memory.write ch.rxBuf ch.rxCnt b) 0 (ch.rxCnt + 1)) := by
    rw [Memory.readN_write_snoc hwf, frameRunning_snoc, hcrc]
  by_cases hlast : ch.rxCnt + 1 = ch.rxLen.toNat
  · have hst' : (ch.payloadTaken k b).rxState = .crc := if_pos hlast
    rw [Chan.rxInv, hst']
    refine ⟨hlast, ?_⟩
    rw [Chan.rxPayload, Chan.payloadTaken, ← hlast]
    exact hrun
  · have hst' : (ch.payloadTaken k b).rxState = .payload := (if_neg hlast).trans hst
    rw [Chan.rxInv, hst']
    exact ⟨hpos, Nat.lt_of_le_of_ne hlt hlast, hrun⟩

/-- A byte taken as the receiver's state says keeps the agreement. -/
theorem Chan.rxInv.byteTaken {k : Config} {ch : Chan} (h : ch.rxInv k) (hwf : Memory.wf ch.rxBuf = true) (b : Byte) :
    (ch.byteTaken k b).rxInv k := by
  have hold := h
  unfold Chan.byteTaken
  unfold Chan.rxInv at h
  cases hst : ch.rxState with
  | waitStart =>
    dsimp only
    split
    · exact Eq.refl k.crcInit
    · exact hold
  | seq =>
    rw [hst] at h
    exact (congrArg (crc8Update k · b) h : _)
  | msgid =>
    rw [hst] at h
    exact (congrArg (crc8Update k · b) h : _)
  | len =>
    rw [hst] at h
    exact Chan.rxInv_lenTaken h b
  | payload => exact Chan.rxInv_payloadTaken hwf hst hold b
  | crc => exact hold

/-! ## The agreement of all receivers -/

theorem State.rxInv.setChan {s : State} (h : s.rxInv) (c : ChanId) {ch' : Chan} (hc : ch'.rxInv s.config) :
    (s.setChan c ch').rxInv := by
  intro d hd
  rcases List.mem_or_eq_of_mem_set hd with hd | rfl
  · exact h d hd
  · exact hc

/-- The step of the receiver's selected operation keeps the agreement. -/
theorem RxStep.rxInv {s t : State} {c : ChanId} {ch : Chan} {e : RxEvent} (h : RxStep s c ch e t)
    (hc : s.chans[c]? = some ch) (hs : s.rxInv) (hwf : Memory.wf ch.rxBuf = true) : t.rxInv := by
  have hch : ch.rxInv s.config := hs ch (List.mem_of_getElem? hc)
  cases h with
  | quiet =>
    exact hs.setChan c ((hch.byteTaken hwf _).congr (receiverKept_of_registers (Chan.registers_rxContinue _)))
  | @returns _ st l r hst _ =>
    have hst' : Chan.rxInv s.config { ch with rxState := st } := by
      rcases hst with rfl | rfl
      · exact Chan.rxInv_of_waitStart _ rfl
      · exact hch
    exact hs.setChan c (hst'.congr (receiverKept_of_placeless (Chan.placeless_resume _ (.result r))))

/-- An operation that leaves every receiver alone (R73 (b)) keeps the agreement. -/
theorem exec_rxInv {i : Instr} {s t : State} (hi : ∀ c, touchesReceiver c i = false) (h : exec i s = .next t)
    (hs : s.rxInv) : t.rxInv := by
  have hk := exec_keeps h
  intro ch' hm
  obtain ⟨c, hc'⟩ := List.mem_iff_getElem?.mp hm
  have hlt : c < s.chans.length := hk.chans ▸ (List.getElem?_eq_some_iff.mp hc').1
  have hc : s.chans[c]? = some s.chans[c] := List.getElem?_eq_getElem hlt
  obtain ⟨dh, hd, hw⟩ := exec_written h hc
  obtain rfl : ch' = dh := Option.some_inj.mp (hc'.symm.trans hd)
  rw [hk.config]
  exact (hs _ (List.getElem_mem hlt)).congr (hw.receiver (hi c))

/-- A new session's receiver is in `WAIT_START` (R221). -/
theorem startInit_rxInv {s t : State} {c : ChanId} (h : exec (.sesStart c .init) s = .next t) (hs : s.rxInv) :
    t.rxInv := by
  obtain ⟨ch, -, hn⟩ := State.onChan_next h
  cases hn
  exact hs.setChan c (Chan.rxInv_of_waitStart _ rfl)

/-! ## Every selected operation -/

/-- A worker's own operation touches a receiver at the start of its session only. -/
theorem workerOp_touches {s : State} {c : ChanId} {ch : Chan} {i : Instr} (h : workerOp s c ch = some i) :
    i = .sesStart c .init ∨ ∀ d, touchesReceiver d i = false := by
  unfold workerOp at h
  split at h
  case h_1 =>
    unfold phaseOp at h
    split at h
    case h_6 => split at h <;> cases h <;> exact .inr fun _ => rfl
    all_goals cases h <;> exact .inr fun _ => rfl
  case h_3 => cases h; exact .inl rfl
  case h_11 v _ w _ => cases h; cases v <;> exact .inr fun _ => rfl
  all_goals cases h <;> exact .inr fun _ => rfl

theorem bcastOp_touches {s : State} {b : Bcast} {j : SlotId} {i : Instr} (h : bcastOp s b j = some i) (d : ChanId) :
    touchesReceiver d i = false := by
  unfold bcastOp at h
  split at h
  case h_1 =>
    split at h
    · cases h; rfl
    · split at h <;> cases h; rfl
  all_goals cases h <;> rfl

/-- Every operation that a step runs keeps the agreement. -/
theorem Runs.exec_rxInv {s t u : State} {i : Instr} (h : Runs s i t) (hm : s.memInv) (hs : s.rxInv)
    (he : exec i t = .next u) : u.rxInv := by
  have ht : t.rxInv := h.rxInv hs
  have untouched (hi : ∀ d, touchesReceiver d i = false) : u.rxInv := Machine.exec_rxInv hi he ht
  cases h with
  | worker hc ho script =>
    rcases workerOp_touches ho with rfl | hi
    · exact startInit_rxInv he ht
    · exact untouched hi
  | @receiver c ch hc hp hr rxs e =>
    have hc' : (s.setChan c { ch with rxs := rxs }).chans[c]? = some { ch with rxs := rxs } :=
      State.setChan_get_self hc _
    have hcnt : ch.rxState = .payload → ch.rxCnt < ch.rxLen.toNat :=
      Chan.rxInv.cnt_lt (hs ch (List.mem_of_getElem? hc))
    have hwf : Memory.wf ch.rxBuf = true :=
      ((Memory.ok_iff _).mp (hm.1 ch (List.mem_of_getElem? hc)).1).1
    obtain ⟨v, hv, hstep⟩ := exec_decodeRx hc' hcnt e
    obtain rfl : v = u := Host.Outcome.next.inj (hv.symm.trans he)
    exact hstep.rxInv hc' ht hwf
  | bcast hb ho => exact untouched (bcastOp_touches ho)
  | sender hc hj x hx => exact untouched fun _ => rfl
  | rawSender hc hj x hx => exact untouched fun _ => rfl
  | _ => exact untouched fun _ => rfl

/-- Settles O18: every operation that runs keeps the agreement (`Runs.exec_rxInv`); the stimuli's own answers write no
receiver but a reset's, which puts every one into `WAIT_START`. -/
theorem receiverInvariantKept : Obligations.ReceiverInvariantKept := by
  intro s t hm hs h
  rcases step_carriesOut s with hn | ⟨σ, rest, p, -, hp, ho⟩
  · rw [hn] at h
    cases h
    exact hs
  · rw [ho] at h
    have hrest : { s with script := rest }.rxInv := hs
    cases hp with
    | run hr => exact hr.exec_rxInv hm hrest h
    | idle script => cases h; exact hs
    | held hc rxs => cases h; exact hrest.setChan _ (hs _ (List.mem_of_getElem? hc) : _)
    | terminate hc => cases h; exact hrest.setChan _ (hs _ (List.mem_of_getElem? hc) : _)
    | rst hl =>
      cases h
      intro ch hch
      obtain ⟨dh, -, rfl⟩ := List.mem_map.mp hch
      exact Chan.rxInv_of_waitStart _ rfl
    | clock now => cases h; exact hs
    | medium c hl => cases h; exact hs
    | noChannel | noMedium | refused => cases h

end Sys2Proof.Machine

/-! SUPPORT. A receiver given several bytes: what it holds inside a frame, and what it signals and returns at
the end (spec/41_rx_transport.md R144 (d), R145). -/

namespace Sys2Proof.Machine

/-! ## Feeding -/

theorem feed_cons {s t : State} {c : ChanId} {ch : Chan} {b : Byte} (hc : s.chans[c]? = some ch)
    (h : exec (decodeRx s.config.start ch.rxState c (.byte b)) s = .next t) (bs : List Byte) :
    feed c (b :: bs) s = feed c bs t := by
  simp [feed, hc, h]

/-- A feed that answers a next state does so for the bytes before a cut, and goes on with those after it. -/
theorem feed_append {s t : State} {c : ChanId} {xs ys : List Byte} (h : feed c (xs ++ ys) s = .next t) :
    ∃ u, feed c xs s = .next u ∧ feed c ys u = .next t := by
  induction xs generalizing s with
  | nil => exact ⟨s, rfl, h⟩
  | cons x xs ih =>
    simp only [List.cons_append, feed] at h ⊢
    split at h
    · cases h
    · split at h
      · exact ih h
      · cases h
      · cases h

/-- The receiver's operations only add outputs. -/
theorem feed_out {s t : State} {c : ChanId} {bs : List Byte} (h : feed c bs s = .next t) : s.out <+: t.out := by
  induction bs generalizing s with
  | nil =>
    cases h
    exact List.prefix_refl _
  | cons b bs ih =>
    simp only [feed] at h
    split at h
    · cases h
    · split at h
      · rename_i he
        exact (exec_emits he).out.trans (ih h)
      · cases h
      · cases h

/-- Where bytes put nothing out, the first of them do not either. -/
theorem feed_take_quiet {s t : State} {c : ChanId} {bs : List Byte} (h : feed c bs s = .next t) (ho : t.out = s.out)
    (n : Nat) : ∃ u, feed c (bs.take n) s = .next u ∧ u.out = s.out := by
  rw [← bs.take_append_drop n] at h
  obtain ⟨u, hu, hrest⟩ := feed_append h
  have hle : u.out <+: s.out := ho ▸ feed_out hrest
  exact ⟨u, hu, hle.eq_of_length_le (feed_out hu).length_le⟩

/-! ## The registers inside a frame -/

/-- A receiver that has taken, from `SEQ`, a header and the payload bytes `got`, its worker at `ctl`. -/
def Chan.frameTaken (k : Config) (ch : Chan) (seq msgid len : Byte) (got : List Byte) (ctl : WorkerCtl) : Chan :=
  { ch with
    rxState := if got.length = len.toNat then .crc else .payload
    rxSeq := seq
    rxMsgid := msgid
    rxLen := len
    rxCnt := got.length
    rxCrc := crc8Block k ch.rxCrc (seq :: msgid :: len :: got)
    rxBuf := Memory.writeN ch.rxBuf 0 got
    ctl := ctl }

theorem Memory.writeN_snoc (m : Memory) (i : Nat) (bs : List Byte) (b : Byte) :
    Memory.writeN m i (bs ++ [b]) = Memory.write (Memory.writeN m i bs) (i + bs.length) b := by
  induction bs generalizing m i with
  | nil => rfl
  | cons x xs ih => simp [Memory.writeN, ih, Nat.add_assoc, Nat.add_comm 1]

/-- What a receiver that has taken a whole payload would deliver. -/
theorem Chan.frameTaken_rxPayload (k : Config) {ch : Chan} (hwf : Memory.wf ch.rxBuf = true) (seq msgid : Byte)
    {len : Byte} {payload : List Byte} (hlen : payload.length = len.toNat) (ctl : WorkerCtl) :
    (ch.frameTaken k seq msgid len payload ctl).rxPayload = payload := by
  rw [Chan.rxPayload, Chan.frameTaken, ← hlen]
  exact Memory.readN_writeN hwf 0 payload

theorem Chan.byteTaken_start {k : Config} {ch : Chan} (h : ch.rxState = .waitStart) :
    ch.byteTaken k k.start = ch.startTaken k := by
  simp [Chan.byteTaken, h]

theorem Chan.byteTaken_seq {k : Config} {ch : Chan} (h : ch.rxState = .seq) (b : Byte) :
    ch.byteTaken k b = ch.seqTaken k b := by
  simp [Chan.byteTaken, h]

theorem Chan.byteTaken_payload {k : Config} {ch : Chan} (h : ch.rxState = .payload) (b : Byte) :
    ch.byteTaken k b = ch.payloadTaken k b := by
  simp [Chan.byteTaken, h]

/-- The header alone (R132 to R134). -/
theorem Chan.frameTaken_nil (k : Config) (ch : Chan) (seq msgid len : Byte) (ctl : WorkerCtl) :
    { ((ch.seqTaken k seq).msgidTaken k msgid).lenTaken k len with ctl := ctl } =
      ch.frameTaken k seq msgid len [] ctl := by
  have hzero : len = 0#8 ↔ 0 = len.toNat := by rw [eq_comm (a := 0), BitVec.toNat_eq]; rfl
  simp [Chan.seqTaken, Chan.msgidTaken, Chan.lenTaken, Chan.frameTaken, Memory.writeN, hzero]

/-- One more payload byte (R135). -/
theorem Chan.frameTaken_byteTaken (k : Config) (ch : Chan) (seq msgid : Byte) {len : Byte} {got : List Byte}
    (h : got.length < len.toNat) (ctl ctl' : WorkerCtl) (b : Byte) :
    { (ch.frameTaken k seq msgid len got ctl).byteTaken k b with ctl := ctl' } =
      ch.frameTaken k seq msgid len (got ++ [b]) ctl' := by
  rw [Chan.byteTaken_payload (if_neg h.ne)]
  simp [Chan.payloadTaken, Chan.frameTaken, Memory.writeN_snoc, h.ne]

/-! ## The bytes of a frame -/

theorem State.setChan_self {s : State} {c : ChanId} {ch : Chan} (hc : s.chans[c]? = some ch) : s.setChan c ch = s := by
  obtain ⟨hl, rfl⟩ := List.getElem?_eq_some_iff.mp hc
  simp [State.setChan]

/-- A payload's length byte says its length (R90). -/
theorem length_eq_toNat {payload : List Byte} (h : payload.length ≤ 255) :
    payload.length = (BitVec.ofNat 8 payload.length).toNat :=
  (Nat.mod_eq_of_lt (by omega)).symm

section Frame

variable {s : State} {c : ChanId} {ch : Chan} (hc : s.chans[c]? = some ch)
include hc

/-- A byte taken without a result by the receiver of `c`, whose registers are `dh`; its worker's place may move. -/
theorem feed_byteTaken (dh : Chan) (hst : dh.rxState ≠ .crc) (hcnt : dh.rxState = .payload → dh.rxCnt < dh.rxLen.toNat)
    (b : Byte) (bs : List Byte) :
    ∃ ctl, feed c (b :: bs) (s.setChan c dh) = feed c bs (s.setChan c { dh.byteTaken s.config b with ctl := ctl }) := by
  have hd : (s.setChan c dh).chans[c]? = some dh := State.setChan_get_self hc dh
  obtain ⟨ctl, e⟩ := (dh.byteTaken s.config b).rxContinue_eq
  refine ⟨ctl, ?_⟩
  rw [feed_cons hd (exec_byteTaken hd hst hcnt b), State.setChan_setChan, State.setChan_config, e]

theorem feed_header (hst : ch.rxState = .seq) (seq msgid len : Byte) (bs : List Byte) :
    ∃ ctl, feed c (seq :: msgid :: len :: bs) s =
      feed c bs (s.setChan c (ch.frameTaken s.config seq msgid len [] ctl)) := by
  obtain ⟨ctl1, h1⟩ := feed_byteTaken hc ch (by simp [hst]) (by simp [hst]) seq (msgid :: len :: bs)
  rw [State.setChan_self hc, Chan.byteTaken_seq hst] at h1
  obtain ⟨ctl2, h2⟩ := feed_byteTaken hc { ch.seqTaken s.config seq with ctl := ctl1 } (by simp [Chan.seqTaken])
    (by simp [Chan.seqTaken]) msgid (len :: bs)
  obtain ⟨ctl3, h3⟩ := feed_byteTaken hc { (ch.seqTaken s.config seq).msgidTaken s.config msgid with ctl := ctl2 }
    (by simp [Chan.msgidTaken]) (by simp [Chan.msgidTaken]) len bs
  refine ⟨ctl3, h1.trans (h2.trans (h3.trans ?_))⟩
  rw [← Chan.frameTaken_nil]
  rfl

theorem feed_payload (seq msgid : Byte) {len : Byte} {got rest : List Byte}
    (hlen : got.length + rest.length ≤ len.toNat) (ctl : WorkerCtl) (bs : List Byte) :
    ∃ ctl', feed c (rest ++ bs) (s.setChan c (ch.frameTaken s.config seq msgid len got ctl)) =
      feed c bs (s.setChan c (ch.frameTaken s.config seq msgid len (got ++ rest) ctl')) := by
  induction rest generalizing got ctl with
  | nil => exact ⟨ctl, by simp⟩
  | cons b rest ih =>
    rw [List.length_cons] at hlen
    have hlt : got.length < len.toNat := by omega
    obtain ⟨ctl1, h1⟩ := feed_byteTaken hc (ch.frameTaken s.config seq msgid len got ctl)
      (by simp [Chan.frameTaken, hlt.ne]) (fun _ => hlt) b (rest ++ bs)
    rw [Chan.frameTaken_byteTaken s.config ch seq msgid hlt] at h1
    obtain ⟨ctl2, h2⟩ := ih (got := got ++ [b]) (by simp; omega) ctl1
    rw [List.append_assoc] at h2
    exact ⟨ctl2, h1.trans h2⟩

/-- From `SEQ`, everything of a frame but its CRC byte. -/
theorem feed_body (hst : ch.rxState = .seq) (seq msgid : Byte) {len : Byte} {payload : List Byte}
    (hlen : payload.length = len.toNat) (bs : List Byte) :
    ∃ ctl, feed c (seq :: msgid :: len :: (payload ++ bs)) s =
      feed c bs (s.setChan c (ch.frameTaken s.config seq msgid len payload ctl)) := by
  obtain ⟨ctl1, h1⟩ := feed_header hc hst seq msgid len (payload ++ bs)
  obtain ⟨ctl2, h2⟩ := feed_payload hc seq msgid (got := []) (rest := payload) (by simp [hlen] : _ ≤ len.toNat) ctl1 bs
  exact ⟨ctl2, h1.trans h2⟩

/-- A whole frame from `SEQ`: the CRC byte's verdict is signalled and returned (R136). -/
theorem feed_frame (hst : ch.rxState = .seq) (seq msgid : Byte) {len : Byte} {payload : List Byte}
    (hlen : payload.length = len.toNat) (crc : Byte) (bs : List Byte) :
    ∃ ctl, ∃ dh : Chan, dh = ch.frameTaken s.config seq msgid len payload ctl ∧
      feed c (seq :: msgid :: len :: (payload ++ crc :: bs)) s =
        feed c bs (s.rxReturn c dh .waitStart (some (dh.verdict s.config crc).1) (dh.verdict s.config crc).2) := by
  obtain ⟨ctl, h⟩ := feed_body hc hst seq msgid hlen (crc :: bs)
  have hd := State.setChan_get_self hc (ch.frameTaken s.config seq msgid len payload ctl)
  have hcrc : (ch.frameTaken s.config seq msgid len payload ctl).rxState = .crc := if_pos hlen
  refine ⟨ctl, _, rfl, h.trans (feed_cons hd ?_ bs)⟩
  rw [hcrc, decodeRx, exec_rxCrc hd, State.rxReturn_setChan, State.setChan_config]

/-- A wire frame from `WAIT_START`, its CRC byte right or wrong (R90, R131). -/
theorem feed_wireFrame (hst : ch.rxState = .waitStart) (seq msgid : Byte) {payload : List Byte}
    (hlen : payload.length ≤ 255) (crc : Byte) (bs : List Byte) :
    ∃ ctl, ∃ dh : Chan,
      dh = (ch.startTaken s.config).frameTaken s.config seq msgid (BitVec.ofNat 8 payload.length) payload ctl ∧
      feed c (wireFrame s.config.start seq msgid payload crc ++ bs) s =
        feed c bs (s.rxReturn c dh .waitStart (some (dh.verdict s.config crc).1) (dh.verdict s.config crc).2) := by
  obtain ⟨ctl0, h0⟩ := feed_byteTaken hc ch (by simp [hst]) (by simp [hst]) s.config.start
    (seq :: msgid :: BitVec.ofNat 8 payload.length :: (payload ++ crc :: bs))
  rw [State.setChan_self hc, Chan.byteTaken_start hst] at h0
  obtain ⟨ctl, dh, hdh, h⟩ := feed_frame
    (State.setChan_get_self hc { ch.startTaken s.config with ctl := ctl0 }) rfl seq msgid
    (length_eq_toNat hlen) crc bs
  rw [State.rxReturn_setChan] at h
  refine ⟨ctl, dh, hdh, Eq.trans ?_ (h0.trans h)⟩
  simp [wireFrame]

/-- A frame with a wrong CRC byte fails (R136, R145); the buffer stays canonical. -/
theorem feed_corruptFrame (hst : ch.rxState = .waitStart) (hwf : Memory.wf ch.rxBuf = true) (seq msgid : Byte)
    {payload : List Byte} (hlen : payload.length ≤ 255) {crc : Byte} (hcrc : crc ≠ frameCrc s.config seq msgid payload)
    (bs : List Byte) :
    ∃ dh : Chan, Memory.wf dh.rxBuf = true ∧
      feed c (wireFrame s.config.start seq msgid payload crc ++ bs) s =
        feed c bs (s.rxReturn c dh .waitStart (some .fail) (.rxFail .crc)) := by
  obtain ⟨ctl, dh, rfl, h⟩ := feed_wireFrame hc hst seq msgid hlen crc bs
  rw [Chan.verdict_mismatch hcrc] at h
  exact ⟨_, Memory.wf_writeN hwf 0 payload, h⟩

/-- A well-formed frame is delivered (R136, R145); the buffer holds its payload. -/
theorem feed_goodFrame (hst : ch.rxState = .waitStart) (hwf : Memory.wf ch.rxBuf = true) (seq msgid : Byte)
    {payload : List Byte} (hlen : payload.length ≤ 255) (bs : List Byte) :
    ∃ dh : Chan, dh.rxPayload = payload ∧
      feed c (frameBytes s.config seq msgid payload ++ bs) s =
        feed c bs (s.rxReturn c dh .waitStart (some .normal)
          (.rxOk seq msgid (BitVec.ofNat 8 payload.length) payload)) := by
  obtain ⟨ctl, dh, hdh, h⟩ := feed_wireFrame hc hst seq msgid hlen (frameCrc s.config seq msgid payload) bs
  have hcrc : frameCrc s.config seq msgid payload = crcFinal s.config dh.rxCrc := by rw [hdh]; rfl
  have hpayload : dh.rxPayload = payload := by
    rw [hdh]
    exact Chan.frameTaken_rxPayload s.config (ch := ch.startTaken s.config) hwf seq msgid
      (length_eq_toNat hlen) ctl
  rw [Chan.verdict_match hcrc, hpayload] at h
  refine ⟨dh, hpayload, h.trans ?_⟩
  rw [hdh]
  rfl

end Frame

/-- Settles O19: bytes fewer than the frame's lie inside its part without a result (`feed_body`), which puts
nothing out; the CRC byte puts out a signal and a result. -/
theorem resultAfterExactly : Obligations.ResultAfterExactly := by
  intro s c ch seq msgid len crc payload hc hst hlen
  constructor
  · intro n hn
    obtain ⟨ctl, h⟩ := feed_body hc hst seq msgid hlen []
    have hcut : (seq :: msgid :: len :: (payload ++ [crc])).take n = (seq :: msgid :: len :: (payload ++ [])).take n := by
      have hn' : n ≤ (seq :: msgid :: len :: payload).length := by simp only [List.length_cons]; omega
      simpa using List.take_append_of_le_length (l₂ := [crc]) hn'
    rw [hcut]
    exact feed_take_quiet h rfl n
  · obtain ⟨ctl, dh, rfl, h⟩ := feed_frame hc hst seq msgid hlen crc []
    refine ⟨_, _, _, h, rfl, ?_⟩
    unfold Chan.verdict
    split
    · exact .inl ⟨rfl, _, rfl⟩
    · exact .inr ⟨rfl, rfl⟩

/-- Settles O21: the first frame fails and leaves the receiver in `WAIT_START` (`feed_corruptFrame`), from where the second
is delivered (`feed_goodFrame`). -/
theorem goodFrameAfterCorruptOne : Obligations.GoodFrameAfterCorruptOne := by
  intro s c ch seq msgid crc seq' msgid' payload payload' hc hst hwf hlen hlen' hbad
  obtain ⟨dh, hdh, h1⟩ := feed_corruptFrame hc hst hwf seq msgid hlen hbad (frameBytes s.config seq' msgid' payload')
  have hc1 := State.rxReturn_get hc dh .waitStart (some .fail) (.rxFail .crc)
  obtain ⟨dh', -, h2⟩ := feed_goodFrame hc1 (by simp) (by simpa using hdh) seq' msgid' hlen' []
  rw [List.append_nil] at h2
  exact ⟨_, _, h1.trans h2, State.rxReturn_get hc1 .., by simp, by simp⟩

end Sys2Proof.Machine

/-! SUPPORT. The frame a sender emits (spec/42_tx_transport.md R161, R163) is the wire frame of its payload, so a
receiver delivers it. -/

namespace Sys2Proof.Machine

/-! ## The frame of a `TX.SEND` -/

@[simp] theorem Chan.txPayload_length (ch : Chan) : ch.txPayload.length = ch.txLen.toNat := Memory.readN_length _ _ _

theorem Chan.txFrame_eq_frameBytes (k : Config) (ch : Chan) (msgid : Byte) :
    ch.txFrame k msgid = frameBytes k ch.txSeq msgid ch.txPayload := by
  simp [Chan.txFrame, frameBytes, frameCrc, wireFrame]

/-- Settles O20: what `TX.SEND` emits is a well-formed frame (`Chan.txFrame_eq_frameBytes`), which a receiver in
`WAIT_START` delivers (`feed_goodFrame`). -/
theorem loopbackDelivers : Obligations.LoopbackDelivers := by
  intro s r c d ch dh msgid _ hd hcfg hst hwf
  have hlen : ch.txPayload.length ≤ 255 := by
    have := ch.txLen.isLt
    rw [ch.txPayload_length]
    omega
  obtain ⟨dh', hpayload, h⟩ := feed_goodFrame hd hst hwf ch.txSeq msgid hlen []
  rw [List.append_nil, hcfg, ← Chan.txFrame_eq_frameBytes] at h
  refine ⟨_, _, h, State.rxReturn_get hd .., by simp, by simp, ?_⟩
  simpa [Chan.rxPayload] using hpayload

end Sys2Proof.Machine

/-! SUPPORT. The bytes a pending write has still to emit, and what the write of one byte does to its channel
(spec/42_tx_transport.md R161 to R166): the same for `TX.SEND` and for `TX.RAW`. -/

namespace Sys2Proof.Machine

/-! ## One sender -/

/-- A channel reduced to its sender (R29 to R31) and the write pending on it. -/
def Chan.sender (ch : Chan) : Chan :=
  { Chan.reset with
    txSeq      := ch.txSeq
    txBuf      := ch.txBuf
    txLen      := ch.txLen
    txPhase    := ch.txPhase
    txIdx      := ch.txIdx
    txCrc      := ch.txCrc
    txHdrSeq   := ch.txHdrSeq
    txHdrMsgid := ch.txHdrMsgid
    txJob      := ch.txJob }

theorem Chan.sender_rxContinue (ch : Chan) : ch.rxContinue.sender = ch.sender := by
  obtain ⟨ctl, e⟩ := ch.rxContinue_eq
  rw [e]
  rfl

/-- The agreement speaks of the sender alone. -/
theorem Chan.txInv.congr {k : Config} {a b : Chan} (h : a.txInv k) (hs : b.sender = a.sender) : b.txInv k := by
  have hsender : b.sender.txInv k := by
    rw [hs]
    exact h
  exact hsender

/-- The bytes still to be written on a channel (R161, R166): of a `TX.SEND` the frame from the field of `tx_phase`
on. -/
def Chan.unsent (k : Config) (ch : Chan) : List Byte :=
  let crc := crcFinal k (frameRunning k ch.txHdrSeq ch.txHdrMsgid ch.txLen ch.txPayload)
  match ch.txJob with
  | .none => []
  | .raw _ rest => rest
  | .send _ =>
    match ch.txPhase with
    | .idle => []
    | .start => k.start :: ch.txHdrSeq :: ch.txHdrMsgid :: ch.txLen :: (ch.txPayload ++ [crc])
    | .seq => ch.txHdrSeq :: ch.txHdrMsgid :: ch.txLen :: (ch.txPayload ++ [crc])
    | .msgid => ch.txHdrMsgid :: ch.txLen :: (ch.txPayload ++ [crc])
    | .len => ch.txLen :: (ch.txPayload ++ [crc])
    | .payload => Memory.readN ch.txBuf ch.txIdx (ch.txLen.toNat - ch.txIdx) ++ [crc]
    | .crc => [crc]

/-- The write that is pending once the bytes `left` are left of it. -/
def TxJob.after (j : TxJob) (left : List Byte) : TxJob :=
  match j with
  | .none => .none
  | .send a => if left = [] then .none else .send a
  | .raw a _ => if left = [] then .none else .raw a left

@[simp] theorem TxJob.after_nil (j : TxJob) : j.after [] = .none := by
  cases j <;> rfl

theorem TxJob.after_after (j : TxJob) {l : List Byte} (h : l ≠ []) (l' : List Byte) :
    (j.after l).after l' = j.after l' := by
  cases j <;> simp [TxJob.after, h]

theorem TxJob.send_of_after {j : TxJob} {l : List Byte} {a : Agent} (h : j.after l = .send a) : j = .send a := by
  unfold TxJob.after at h
  split at h
  · cases h
  · split at h <;> cases h
    rfl
  · split at h <;> cases h

/-- A channel without what the bytes of a pending write move: phase, index, accumulator, the write itself, and the place
of a worker that calls it. -/
def Chan.writeless (ch : Chan) : Chan :=
  { ch with txPhase := .idle, txIdx := 0, txCrc := 0, txJob := .none, ctl := .run }

/-- The index and the accumulator are `TX.SEND`'s own: a `TX.RAW` writes neither (R166). -/
def RawKept (a b : Chan) : Prop := (∀ agent, a.txJob ≠ .send agent) → b.txIdx = a.txIdx ∧ b.txCrc = a.txCrc

/-- The write pending on the channel `ch` goes on to `ch'`. -/
structure WriteOn (k : Config) (ch ch' : Chan) : Prop where
  txInv : ch'.txInv k
  job : ch'.txJob = ch.txJob.after (ch'.unsent k)
  kept : ch'.writeless = ch.writeless
  raw : RawKept ch ch'

/-- It goes on by emitting the byte `b`. -/
structure ByteWritten (k : Config) (b : Byte) (ch ch' : Chan) : Prop extends WriteOn k ch ch' where
  unsent : ch.unsent k = b :: ch'.unsent k

/-- A channel whose `TX.SEND` stands at the field `p` (R31). -/
def Chan.sendAt (ch : Chan) (p : TxPhase) (idx : Nat) (crc : Byte) : Chan :=
  { ch with txPhase := p, txIdx := idx, txCrc := crc }

section Send

variable {k : Config} {ch : Chan} {a : Agent} (hj : ch.txJob = .send a)
include hj

theorem Chan.unsent_send_ne_nil (hi : ch.txInv k) : ch.unsent k ≠ [] := by
  rw [Chan.txInv, hj] at hi
  rw [Chan.unsent, hj]
  cases hp : ch.txPhase <;> simp [hp] at hi ⊢

/-- A byte of a `TX.SEND` that is not its last moves phase, index and accumulator. -/
theorem byteWritten_sendAt {b : Byte} {p : TxPhase} {idx : Nat} {crc : Byte}
    (hu : ch.unsent k = b :: (ch.sendAt p idx crc).unsent k) (hi : (ch.sendAt p idx crc).txInv k) :
    ByteWritten k b ch (ch.sendAt p idx crc) where
  txInv := hi
  job := by
    have hne : (ch.sendAt p idx crc).unsent k ≠ [] := Chan.unsent_send_ne_nil (a := a) hj hi
    rw [hj, TxJob.after, if_neg hne]
    exact hj
  kept := rfl
  raw h := absurd hj (h a)
  unsent := hu

/-- The length byte, which the CRC follows where the payload is empty (R161). -/
theorem byteWritten_len (hp : ch.txPhase = .len) (h : ch.txInv k) :
    ByteWritten k ch.txLen ch
      (ch.sendAt (if ch.txLen = 0 then .crc else .payload) ch.txIdx (crc8Update k ch.txCrc ch.txLen)) := by
  simp only [Chan.txInv, hj, hp] at h
  obtain ⟨hcrc, hidx⟩ := h
  have hrun : crc8Update k ch.txCrc ch.txLen = frameRunning k ch.txHdrSeq ch.txHdrMsgid ch.txLen [] := by
    rw [hcrc]
    rfl
  by_cases hzero : ch.txLen = 0
  · have hnone : Memory.readN ch.txBuf 0 ch.txLen.toNat = [] := by simp [hzero, Memory.readN]
    rw [if_pos hzero]
    exact byteWritten_sendAt hj (by simp [Chan.unsent, Chan.txPayload, Chan.sendAt, hj, hp, hnone])
      (by simp [Chan.txInv, Chan.txPayload, Chan.sendAt, hj, hrun, hnone])
  · have hpos : 0 < ch.txLen.toNat := Nat.pos_of_ne_zero fun h => hzero (BitVec.eq_of_toNat_eq h)
    rw [if_neg hzero]
    exact byteWritten_sendAt hj (by simp [Chan.unsent, Chan.txPayload, Chan.sendAt, hj, hp, hidx])
      (by simp [Chan.txInv, Chan.sendAt, hj, hidx, hpos, hrun, Memory.readN])

/-- A payload byte, which the CRC follows where it is the last (R161). -/
theorem byteWritten_payload (hp : ch.txPhase = .payload) (h : ch.txInv k) :
    ByteWritten k (Memory.read ch.txBuf ch.txIdx) ch
      (ch.sendAt (if ch.txIdx + 1 = ch.txLen.toNat then .crc else .payload) (ch.txIdx + 1)
        (crc8Update k ch.txCrc (Memory.read ch.txBuf ch.txIdx))) := by
  simp only [Chan.txInv, hj, hp] at h
  obtain ⟨hlt, hcrc⟩ := h
  have hrun : crc8Update k ch.txCrc (Memory.read ch.txBuf ch.txIdx) =
      frameRunning k ch.txHdrSeq ch.txHdrMsgid ch.txLen (Memory.readN ch.txBuf 0 (ch.txIdx + 1)) := by
    rw [Memory.readN_succ, frameRunning_snoc, hcrc, Nat.zero_add]
  have hrest : Memory.readN ch.txBuf ch.txIdx (ch.txLen.toNat - ch.txIdx) =
      Memory.read ch.txBuf ch.txIdx :: Memory.readN ch.txBuf (ch.txIdx + 1) (ch.txLen.toNat - (ch.txIdx + 1)) := by
    rw [← Memory.readN]
    congr 1
    omega
  by_cases hlast : ch.txIdx + 1 = ch.txLen.toNat
  · rw [if_pos hlast]
    exact byteWritten_sendAt hj
      (by simp [Chan.unsent, Chan.txPayload, Chan.sendAt, hj, hp, hrest, hlast, Memory.readN])
      (by simp [Chan.txInv, Chan.txPayload, Chan.sendAt, hj, hrun, hlast])
  · rw [if_neg hlast]
    exact byteWritten_sendAt hj (by simp [Chan.unsent, Chan.txPayload, Chan.sendAt, hj, hp, hrest])
      (by simp [Chan.txInv, Chan.sendAt, hj, hrun]; omega)

/-- The last byte of a `TX.SEND` ends it. -/
theorem byteWritten_crc (hp : ch.txPhase = .crc) (h : ch.txInv k) :
    ByteWritten k (crcFinal k ch.txCrc) ch { ch with txPhase := .idle, txJob := .none } := by
  simp only [Chan.txInv, hj, hp] at h
  exact ⟨⟨by simp [Chan.txInv], by simp [Chan.unsent, TxJob.after, hj], rfl, fun hraw => absurd hj (hraw a)⟩,
    by simp [Chan.unsent, hj, hp, h]⟩

/-- Every byte of a pending `TX.SEND` (R161, R162). -/
theorem Chan.sendByte_written (h : ch.txInv k) : ∃ b ch', ch.sendByte k = some (b, ch') ∧ ByteWritten k b ch ch' := by
  have hold := h
  rw [Chan.txInv, hj] at h
  unfold Chan.sendByte
  cases hp : ch.txPhase with
  | idle => simp [hp] at h
  | start =>
    simp only [hp] at h
    exact ⟨_, _, rfl, byteWritten_sendAt hj (p := .seq) (by simp [Chan.unsent, Chan.txPayload, Chan.sendAt, hj, hp])
      (by simp [Chan.txInv, Chan.sendAt, hj, h])⟩
  | seq =>
    simp only [hp] at h
    exact ⟨_, _, rfl, byteWritten_sendAt hj (p := .msgid)
      (by simp [Chan.unsent, Chan.txPayload, Chan.sendAt, hj, hp]) (by simp [Chan.txInv, Chan.sendAt, hj, h])⟩
  | msgid =>
    simp only [hp] at h
    exact ⟨_, _, rfl, byteWritten_sendAt hj (p := .len)
      (by simp [Chan.unsent, Chan.txPayload, Chan.sendAt, hj, hp]) (by simp [Chan.txInv, Chan.sendAt, hj, h])⟩
  | len => exact ⟨_, _, rfl, byteWritten_len hj hp hold⟩
  | payload => exact ⟨_, _, rfl, byteWritten_payload hj hp hold⟩
  | crc => exact ⟨_, _, rfl, byteWritten_crc hj hp hold⟩

end Send

/-- A channel after a byte of a `TX.RAW`, `rest` being still to write (R166). -/
def Chan.rawTaken (ch : Chan) (a : Agent) (rest : List Byte) : Chan :=
  { ch with
    txPhase := rawPhase ch.txPhase rest
    txJob := if rest.isEmpty then .none else .raw a rest }

theorem rawPhase_ne_idle (p : TxPhase) {rest : List Byte} (h : rest ≠ []) : rawPhase p rest ≠ .idle := by
  unfold rawPhase
  split
  · exact absurd rfl h
  · simp
  · split <;> simp

/-- Every byte of a pending `TX.RAW` (R166). -/
theorem Chan.rawTaken_written (k : Config) {ch : Chan} {a : Agent} {b : Byte} {rest : List Byte}
    (hj : ch.txJob = .raw a (b :: rest)) : ByteWritten k b ch (ch.rawTaken a rest) := by
  have hu : (ch.rawTaken a rest).unsent k = rest := by
    cases rest <;> rfl
  refine ⟨⟨?_, ?_, rfl, fun _ => ⟨rfl, rfl⟩⟩, by rw [hu, Chan.unsent, hj]⟩
  · cases rest with
    | nil => rfl
    | cons x rest => exact ⟨rawPhase_ne_idle ch.txPhase (List.cons_ne_nil x rest), List.cons_ne_nil x rest⟩
  · rw [hu, hj]
    cases rest <;> rfl

/-! ## A write goes on -/

/-- A pending write has bytes left, and none is left where none is pending. -/
theorem WriteOn.refl {k : Config} {ch : Chan} (h : ch.txInv k) : WriteOn k ch ch where
  txInv := h
  job := by
    cases hj : ch.txJob with
    | none => rfl
    | send a => rw [TxJob.after, if_neg (Chan.unsent_send_ne_nil hj h)]
    | raw a rest =>
      rw [Chan.txInv, hj] at h
      rw [TxJob.after, Chan.unsent, hj, if_neg h.2]
  kept := rfl
  raw _ := ⟨rfl, rfl⟩

theorem WriteOn.trans {k : Config} {a b d : Chan} (h : WriteOn k a b) (hb : b.unsent k ≠ []) (h' : WriteOn k b d) :
    WriteOn k a d where
  txInv := h'.txInv
  job := by rw [h'.job, h.job, TxJob.after_after _ hb]
  kept := h'.kept.trans h.kept
  raw hraw := by
    obtain ⟨hidx, hcrc⟩ := h.raw hraw
    obtain ⟨hidx', hcrc'⟩ := h'.raw fun agent hs => hraw agent (TxJob.send_of_after (h.job ▸ hs))
    exact ⟨hidx'.trans hidx, hcrc'.trans hcrc⟩

/-- The place of the worker is of no matter to a write. -/
theorem WriteOn.ctl {k : Config} {ch ch' dh : Chan} (h : WriteOn k ch ch') (hctl : ChanKeptButCtl ch' dh) :
    WriteOn k ch dh ∧ dh.unsent k = ch'.unsent k := by
  obtain ⟨ctl, rfl⟩ := hctl
  exact ⟨⟨h.txInv, h.job, h.kept, h.raw⟩, rfl⟩

/-- No write is pending exactly where no byte is left. -/
theorem WriteOn.ended_iff {k : Config} {ch ch' : Chan} (h : WriteOn k ch ch') :
    ch'.txJob = .none ↔ ch'.unsent k = [] := by
  refine ⟨fun hj => by simp [Chan.unsent, hj], fun hu => ?_⟩
  rw [h.job, hu, TxJob.after_nil]

end Sys2Proof.Machine

/-! SUPPORT. The operations of the sender as equations, and a write that goes on byte by byte, from its call to its last
byte (spec/42_tx_transport.md R161 to R166). -/

namespace Sys2Proof.Machine

/-! ## What a called operation leaves alone -/

theorem ChanKeptButCtl.trans {a b d : Chan} (h : ChanKeptButCtl a b) (k : ChanKeptButCtl b d) : ChanKeptButCtl a d := by
  obtain ⟨ctl, rfl⟩ := h
  obtain ⟨ctl', rfl⟩ := k
  exact ⟨ctl', rfl⟩

theorem CallKept.trans {s t u : State} {c : ChanId} {a : Agent} (h : CallKept s t c a) (k : CallKept t u c a) :
    CallKept s u c a := by
  obtain ⟨⟨hconfig, hcfg, hmedium, hnow, hscript⟩, hreg, hlocks, hnext, hlen, hchans, hbcasts⟩ := h
  obtain ⟨⟨kconfig, kcfg, kmedium, know, kscript⟩, kreg, klocks, knext, klen, kchans, kbcasts⟩ := k
  refine ⟨⟨kconfig.trans hconfig, kcfg.trans hcfg, kmedium.trans hmedium, know.trans hnow, kscript.trans hscript⟩,
    kreg.trans hreg, klocks.trans hlocks, knext.trans hnext, klen.trans hlen, fun d dh hd hdh => ?_,
    fun ha => (kbcasts ha).trans (hbcasts ha)⟩
  obtain ⟨dh', hdh', hctl⟩ := hchans d dh hd hdh
  obtain ⟨dh'', hdh'', kctl⟩ := kchans d dh' hd hdh'
  exact ⟨dh'', hdh'', hctl.trans kctl⟩

theorem CallKept.config {s t : State} {c : ChanId} {a : Agent} (h : CallKept s t c a) : t.config = s.config := by
  obtain ⟨⟨hconfig, -⟩, -⟩ := h
  exact hconfig

theorem callKept_setChan (s : State) (c : ChanId) (ch : Chan) (a : Agent) : CallKept s (s.setChan c ch) c a :=
  ⟨⟨rfl, rfl, rfl, rfl, rfl⟩, rfl, rfl, rfl, by simp,
    fun _ dh hd hdh => ⟨dh, (State.setChan_get_ne s hd ch).trans hdh, dh.ctl, rfl⟩, fun _ => rfl⟩

theorem callKept_output (s : State) (o : Output) (c : ChanId) (a : Agent) : CallKept s (s.output o) c a :=
  ⟨⟨rfl, rfl, rfl, rfl, rfl⟩, rfl, rfl, rfl, rfl, fun _ dh _ hdh => ⟨dh, hdh, dh.ctl, rfl⟩, fun _ => rfl⟩

/-- A caller that carries on, but from a release, leaves alone what its call does. -/
theorem callKept_resume (s : State) (c : ChanId) (a : Agent) {r : Return} (hr : r ≠ .released) :
    CallKept s (s.resume a r) c a :=
  ⟨State.resume_world s a r, State.resume_reg .., State.resume_locks .., State.resume_nextBc ..,
    by simpa using congrArg List.length (s.resume_placeless a r),
    fun _ _ _ hdh => State.resume_chan_of_ne_released hdh a hr, fun ha => State.resume_bcasts ha r⟩

theorem callKept_ret (s : State) (c : ChanId) (a : Agent) (r : Result) : CallKept s (s.ret a r) c a :=
  (callKept_output s _ c a).trans (callKept_resume _ c a (by simp))

theorem State.ret_out_eq (s : State) (a : Agent) (r : Result) : (s.ret a r).out = s.out ++ [.result a r] :=
  State.resume_out_of_ne_released (s.output _) a (by simp)

theorem State.ret_get {s : State} {c : ChanId} {ch : Chan} (hc : s.chans[c]? = some ch) (a : Agent) (r : Result) :
    ∃ ch', (s.ret a r).chans[c]? = some ch' ∧ ChanKeptButCtl ch ch' :=
  State.resume_chan_of_ne_released (s := s.output _) hc a (by simp)

/-! ## The operations as equations -/

/-- The sender after the call of `TX.SEND` (R161). -/
def Chan.sendCalled (k : Config) (ch : Chan) (a : Agent) (msgid : Byte) : Chan :=
  { ch with
    txSeq := ch.txSeq + 1
    txHdrSeq := ch.txSeq
    txHdrMsgid := msgid
    txCrc := k.crcInit
    txIdx := 0
    txPhase := .start
    txJob := .send a }

/-- The sender after the call of `TX.RAW` (R166). -/
def Chan.rawCalled (ch : Chan) (a : Agent) (frame : List Byte) : Chan :=
  { ch with
    txPhase := if frame.isEmpty then .idle else .start
    txJob := if frame.isEmpty then .none else .raw a frame }

theorem Chan.sendCalled_txInv (k : Config) (ch : Chan) (a : Agent) (msgid : Byte) :
    (ch.sendCalled k a msgid).txInv k :=
  ⟨rfl, rfl⟩

theorem Chan.rawCalled_txInv (k : Config) (ch : Chan) (a : Agent) (frame : List Byte) :
    (ch.rawCalled a frame).txInv k := by
  cases frame with
  | nil => exact Eq.refl TxPhase.idle
  | cons b rest => exact ⟨by simp [Chan.rawCalled], by simp⟩

/-- The sender after a failed write (R164). -/
def Chan.aborted (ch : Chan) : Chan := { ch with txPhase := .idle, txJob := .none }

/-- The byte `b` is emitted on channel `c`, whose registers are `ch'` then; after the last one `a` gets its result. -/
def State.wrote (s : State) (c : ChanId) (a : Agent) (b : Byte) (ch' : Chan) : State :=
  if ch'.txJob = .none then ((s.setChan c ch').emit c b).ret a .txOk else (s.setChan c ch').emit c b

section Sender

variable {s : State} {c : ChanId} {ch : Chan} {a : Agent} (hc : s.chans[c]? = some ch)
include hc

theorem State.onTransport_some (hh : s.holds a c = true) (hw : s.writePending (s.mediumOf c) = false)
    (f : Chan → Answer) : s.onTransport a c f = f ch := by
  rw [State.onTransport, State.onChan_some hc, if_pos hh, hw]
  rfl

theorem exec_sendCall (hh : s.holds a c = true) (hw : s.writePending (s.mediumOf c) = false) (msgid : Byte) :
    exec (.txSend c (.call a msgid)) s =
      .next ((s.setChan c (ch.sendCalled s.config a msgid)).resume a .accepted) :=
  State.onTransport_some hc hh hw _

/-- The call of `TX.RAW`: a byte string that is not empty is pending then, the empty one is written. -/
theorem exec_rawCall (hh : s.holds a c = true) (hw : s.writePending (s.mediumOf c) = false) (frame : List Byte) :
    exec (.txRaw c (.call a frame)) s =
      .next (if frame.isEmpty then ((s.setChan c (ch.rawCalled a frame)).resume a .accepted).ret a .txOk
        else (s.setChan c (ch.rawCalled a frame)).resume a .accepted) := by
  refine (State.onTransport_some hc hh hw _).trans ?_
  cases frame <;> rfl

/-- `TxReady` for a pending `TX.SEND`, whose index is inside its buffer (R162). -/
theorem exec_sendReady (hj : ch.txJob = .send a) (hi : ch.txInv s.config) :
    ∃ b ch', exec (.txSend c .ready) s = .next (s.wrote c a b ch') ∧ ByteWritten s.config b ch ch' := by
  obtain ⟨b, ch', hb, hw⟩ := Chan.sendByte_written hj hi
  have hin : ¬ (ch.txPhase = .payload ∧ bufSize ≤ ch.txIdx) := by
    rintro ⟨hp, hfull⟩
    simp only [Chan.txInv, hj, hp] at hi
    have hlt : ch.txIdx < 255 := by
      have := ch.txLen.isLt
      omega
    exact absurd hfull (Nat.not_le.mpr hlt)
  refine ⟨b, ch', (State.onChan_some hc _).trans ?_, hw⟩
  simp only [hj, if_neg hin, hb, State.wrote]
  split <;> rfl

/-- `TxReady` for a pending `TX.RAW` (R166). -/
theorem exec_rawReady {b : Byte} {rest : List Byte} (hj : ch.txJob = .raw a (b :: rest)) :
    exec (.txRaw c .ready) s = .next (s.wrote c a b (ch.rawTaken a rest)) := by
  refine (State.onChan_some hc _).trans ?_
  rw [hj]
  cases rest <;> rfl

/-- `TxTimeout` and `ChReset` for a pending write (R164). -/
theorem exec_abort {i : Instr}
    (h : (ch.txJob = .send a ∧ i ∈ [Instr.txSend c .timeout, Instr.txSend c .chReset]) ∨
      ((∃ rest, ch.txJob = .raw a rest) ∧ i ∈ [Instr.txRaw c .timeout, Instr.txRaw c .chReset])) :
    exec i s = .next (s.raise (.txFail c a)) := by
  rcases h with ⟨hj, hi⟩ | ⟨⟨rest, hj⟩, hi⟩
  · have habort : sendAbort c s = .next (s.raise (.txFail c a)) := by
      rw [sendAbort, State.onChan_some hc, hj]
    rcases List.mem_pair.mp hi with rfl | rfl <;> exact habort
  · have habort : rawAbort c s = .next (s.raise (.txFail c a)) := by
      rw [rawAbort, State.onChan_some hc, hj]
    rcases List.mem_pair.mp hi with rfl | rfl <;> exact habort

end Sender

/-! ## A write that goes on -/

/-- What `a` called on channel `c` of `s`, which left the registers `ch` there, has emitted the bytes `done` by the
state `t`, where they are `ch'`. -/
structure WriteProgress (a : Agent) (c : ChanId) (s : State) (ch : Chan) (done : List Byte) (t : State) (ch' : Chan) :
    Prop where
  chan : t.chans[c]? = some ch'
  call : CallKept s t c a
  regs : WriteOn s.config ch ch'
  out : t.out = s.out ++ (done.map (.emit c) ++ if ch'.unsent s.config = [] then [.result a .txOk] else [])

section Progress

variable {a : Agent} {c : ChanId} {s t : State} {ch dh : Chan} {done : List Byte}

/-- One byte more. -/
theorem WriteProgress.byte (h : WriteProgress a c s ch done t dh) {b : Byte} {dh' : Chan}
    (hw : ByteWritten s.config b dh dh') :
    ∃ eh, WriteProgress a c s ch (done ++ [b]) (t.wrote c a b dh') eh ∧ eh.unsent s.config = dh'.unsent s.config := by
  have hne : dh.unsent s.config ≠ [] := by simp [hw.unsent]
  have hregs : WriteOn s.config ch dh' := h.regs.trans hne hw.toWriteOn
  have hget : ((t.setChan c dh').emit c b).chans[c]? = some dh' := State.setChan_get_self h.chan dh'
  have hcall : CallKept s ((t.setChan c dh').emit c b) c a :=
    (h.call.trans (callKept_setChan t c dh' a)).trans (callKept_output _ _ c a)
  have hout : ((t.setChan c dh').emit c b).out = s.out ++ (done ++ [b]).map (.emit c) := by simp [h.out, hne]
  unfold State.wrote
  split
  · rename_i hj
    obtain ⟨eh, heh, hctl⟩ := State.ret_get hget a .txOk
    obtain ⟨hon, hu⟩ := hregs.ctl hctl
    refine ⟨eh, ⟨heh, hcall.trans (callKept_ret _ c a _), hon, ?_⟩, hu⟩
    rw [State.ret_out_eq, hout, hu, if_pos (hregs.ended_iff.mp hj), List.append_assoc]
  · rename_i hj
    refine ⟨dh', ⟨hget, hcall, hregs, ?_⟩, rfl⟩
    rw [hout, if_neg fun hu => hj (hregs.ended_iff.mpr hu), List.append_nil]

/-- `i` is the operation by which the write `j` of `a` on channel `c` emits its next byte. -/
def WritesByte (i : Instr) (c : ChanId) (a : Agent) (j : TxJob) : Prop :=
  ∀ (t : State) (dh : Chan), t.chans[c]? = some dh → dh.txInv t.config → dh.txJob ≠ .none →
    dh.txJob = j.after (dh.unsent t.config) →
    ∃ b dh', exec i t = .next (t.wrote c a b dh') ∧ ByteWritten t.config b dh dh'

/-- `p n` runs the operation `i` `n` times. -/
structure Repeats (i : Instr) (p : Nat → State → Answer) : Prop where
  zero : ∀ t, p 0 t = .next t
  succ : ∀ n t u, exec i t = .next u → p (n + 1) t = p n u

/-- A write goes on byte by byte. -/
theorem WriteProgress.run {i : Instr} {p : Nat → State → Answer} (hp : Repeats i p) (hi : WritesByte i c a ch.txJob)
    {n : Nat} (h : WriteProgress a c s ch done t dh) (hn : n ≤ (dh.unsent s.config).length) :
    ∃ u eh, p n t = .next u ∧ WriteProgress a c s ch (done ++ (dh.unsent s.config).take n) u eh ∧
      eh.unsent s.config = (dh.unsent s.config).drop n := by
  induction n generalizing done t dh with
  | zero => exact ⟨t, dh, hp.zero t, by simpa using h, rfl⟩
  | succ n ih =>
    have hconfig := h.call.config
    have hne : dh.txJob ≠ .none := fun hj => by simp [h.regs.ended_iff.mp hj] at hn
    obtain ⟨b, dh', hexec, hw⟩ := hi t dh h.chan (hconfig ▸ h.regs.txInv) hne (hconfig ▸ h.regs.job)
    rw [hconfig] at hw
    obtain ⟨eh, heh, hu⟩ := h.byte hw
    obtain ⟨u, fh, hrun, hprog, hleft⟩ := ih heh (by simpa [hu, hw.unsent] using hn)
    refine ⟨u, fh, (hp.succ n t _ hexec).trans hrun, ?_, ?_⟩
    · simpa [hw.unsent, hu] using hprog
    · simpa [hw.unsent, hu] using hleft

end Progress

/-! ## The two writes -/

theorem repeats_pump (c : ChanId) : Repeats (.txSend c .ready) (pump c) :=
  ⟨fun _ => rfl, fun n t u h => by simp [pump, h]⟩

theorem repeats_pumpRaw (c : ChanId) : Repeats (.txRaw c .ready) (pumpRaw c) :=
  ⟨fun _ => rfl, fun n t u h => by simp [pumpRaw, h]⟩

theorem writesByte_send (c : ChanId) (a : Agent) : WritesByte (.txSend c .ready) c a (.send a) := by
  intro t dh hc hi hne hj
  have hsend : dh.txJob = .send a := by
    rw [TxJob.after] at hj
    split at hj
    · exact absurd hj hne
    · exact hj
  exact exec_sendReady hc hsend hi

theorem writesByte_raw (c : ChanId) (ch : Chan) (a : Agent) (frame : List Byte) :
    WritesByte (.txRaw c .ready) c a (ch.rawCalled a frame).txJob := by
  intro t dh hc hi hne hj
  cases hu : dh.unsent t.config with
  | nil => exact absurd (hj.trans (by rw [hu, TxJob.after_nil])) hne
  | cons b rest =>
    rw [hu] at hj
    cases frame with
    | nil => exact absurd hj hne
    | cons x xs => exact ⟨b, dh.rawTaken a rest, exec_rawReady hc hj, Chan.rawTaken_written _ hj⟩

section Calls

variable {s : State} {c : ChanId} {ch : Chan} {a : Agent} {n : Nat} (hc : s.chans[c]? = some ch)
  (hh : s.holds a c = true) (hw : s.writePending (s.mediumOf c) = false)
include hc hh hw

/-- `TX.SEND`, called and given `n` times `TxReady` (R161, R162). -/
theorem txSend_progress {msgid : Byte} (hn : n ≤ (ch.txFrame s.config msgid).length) :
    ∃ t0 t ch', exec (.txSend c (.call a msgid)) s = .next t0 ∧ pump c n t0 = .next t ∧
      WriteProgress a c s (ch.sendCalled s.config a msgid) ((ch.txFrame s.config msgid).take n) t ch' ∧
      ch'.unsent s.config = (ch.txFrame s.config msgid).drop n := by
  have hframe : (ch.sendCalled s.config a msgid).unsent s.config = ch.txFrame s.config msgid := rfl
  obtain ⟨dh, hget, hctl⟩ := State.resume_chan_of_ne_released
    (State.setChan_get_self hc (ch.sendCalled s.config a msgid)) a (r := .accepted) (by simp)
  obtain ⟨hon, hu⟩ := (WriteOn.refl (ch.sendCalled_txInv s.config a msgid)).ctl hctl
  have hstart : WriteProgress a c s (ch.sendCalled s.config a msgid) []
      ((s.setChan c (ch.sendCalled s.config a msgid)).resume a .accepted) dh :=
    ⟨hget, (callKept_setChan s c _ a).trans (callKept_resume _ c a (by simp)), hon, by
      rw [State.resume_out_of_ne_released _ a (by simp), hu, hframe, if_neg (by simp [Chan.txFrame])]
      simp⟩
  rw [hframe] at hu
  obtain ⟨t, ch', hrun, hprog, hleft⟩ := hstart.run (repeats_pump c) (writesByte_send c a) (hu ▸ hn)
  rw [hu] at hprog hleft
  exact ⟨_, t, ch', exec_sendCall hc hh hw msgid, hrun, hprog, hleft⟩

/-- The call of `TX.RAW`. -/
theorem rawCall_progress (frame : List Byte) :
    ∃ t ch', exec (.txRaw c (.call a frame)) s = .next t ∧ WriteProgress a c s (ch.rawCalled a frame) [] t ch' ∧
      ch'.unsent s.config = frame := by
  rw [exec_rawCall hc hh hw frame]
  obtain ⟨dh, hget, hctl⟩ := State.resume_chan_of_ne_released
    (State.setChan_get_self hc (ch.rawCalled a frame)) a (r := .accepted) (by simp)
  have hcall := (callKept_setChan s c (ch.rawCalled a frame) a).trans
    (callKept_resume _ c a (r := .accepted) (by simp))
  have hout : ((s.setChan c (ch.rawCalled a frame)).resume a .accepted).out = s.out :=
    State.resume_out_of_ne_released _ a (by simp)
  cases frame with
  | nil =>
    obtain ⟨eh, hget', hctl'⟩ := State.ret_get hget a .txOk
    obtain ⟨hon, hu⟩ := (WriteOn.refl (ch.rawCalled_txInv s.config a [])).ctl (hctl.trans hctl')
    have hnone : eh.unsent s.config = [] := hu
    exact ⟨_, eh, rfl, ⟨hget', hcall.trans (callKept_ret _ c a _), hon, by simp [State.ret_out_eq, hout, hnone]⟩, hnone⟩
  | cons b rest =>
    obtain ⟨hon, hu⟩ := (WriteOn.refl (ch.rawCalled_txInv s.config a (b :: rest))).ctl hctl
    have hall : dh.unsent s.config = b :: rest := hu
    exact ⟨_, dh, rfl, ⟨hget, hcall, hon, by simp [hout, hall]⟩, hall⟩

/-- `TX.RAW`, called and given `n` times `TxReady` (R166). -/
theorem txRaw_progress {frame : List Byte} (hn : n ≤ frame.length) :
    ∃ t0 t ch', exec (.txRaw c (.call a frame)) s = .next t0 ∧ pumpRaw c n t0 = .next t ∧
      WriteProgress a c s (ch.rawCalled a frame) (frame.take n) t ch' ∧ ch'.unsent s.config = frame.drop n := by
  obtain ⟨t0, dh, hexec, hstart, hu⟩ := rawCall_progress hc hh hw frame
  obtain ⟨t, ch', hrun, hprog, hleft⟩ := hstart.run (repeats_pumpRaw c) (writesByte_raw c ch a frame) (hu ▸ hn)
  rw [hu] at hprog hleft
  exact ⟨t0, t, ch', hexec, hrun, hprog, hleft⟩

end Calls

/-! ## What a write leaves alone -/

theorem receiverKept_of_writeless {a b : Chan} (h : b.writeless = a.writeless) : ReceiverKept a b :=
  receiverKept_of_registers (congrArg Chan.registers h :)

theorem workerKept_of_writeless {a b : Chan} (h : b.writeless = a.writeless) : WorkerKept a b :=
  ⟨(congrArg Chan.sesPhase h :), (congrArg Chan.sesSlot h :), (congrArg Chan.sesTermReq h :),
    (congrArg Chan.sesLastStatus h :)⟩

theorem txBufKept_of_writeless {a b : Chan} (h : b.writeless = a.writeless) : TxBufKept a b :=
  fun i => (congrArg (fun ch : Chan => Memory.read ch.txBuf i) h :)

theorem Chan.txFrame_length_eq (k : Config) (ch : Chan) (msgid : Byte) :
    (ch.txFrame k msgid).length = 5 + ch.txLen.toNat := by
  simp [Chan.txFrame, Nat.add_comm 5]

/-- A write with bytes left is pending, in a phase other than `IDLE`; one without is over. -/
theorem WriteOn.phase {k : Config} {ch ch' : Chan} (h : WriteOn k ch ch') :
    (ch'.unsent k ≠ [] → ch'.txPhase ≠ .idle) ∧ (ch'.unsent k = [] → ch'.txJob = .none ∧ ch'.txPhase = .idle) := by
  have hinv := h.txInv
  refine ⟨fun hne hp => ?_, fun hu => ?_⟩
  · cases hj : ch'.txJob with
    | none => exact hne (h.ended_iff.mp hj)
    | send a => simp [Chan.txInv, hj, hp] at hinv
    | raw a rest => simp [Chan.txInv, hj, hp] at hinv
  · have hj := h.ended_iff.mpr hu
    rw [Chan.txInv, hj] at hinv
    exact ⟨hj, hinv⟩

/-! ## The obligations -/

/-- Settles O24: the frame is what is left to write at the call, and a write goes on byte by byte
(`txSend_progress`). -/
theorem txSendEmitsFrame : Obligations.TxSendEmitsFrame := by
  intro s c ch a msgid n hc hh hw hn
  have hlen := ch.txFrame_length_eq s.config msgid
  obtain ⟨t0, t, ch', hcall, hrun, hprog, hleft⟩ := txSend_progress hc hh hw (hlen ▸ hn)
  have hk := hprog.regs.kept
  have hend : ch'.unsent s.config = [] ↔ n = 5 + ch.txLen.toNat := by
    rw [hleft, List.drop_eq_nil_iff, hlen]
    omega
  obtain ⟨hphase, hover⟩ := hprog.regs.phase
  refine ⟨t0, t, ch', hcall, hrun, hprog.chan, hprog.call, (receiverKept_of_writeless hk :),
    (workerKept_of_writeless hk :), (congrArg Chan.rxs hk :), (txBufKept_of_writeless hk :), (congrArg Chan.txLen hk :),
    (congrArg Chan.txSeq hk :), (congrArg Chan.txHdrSeq hk :), (congrArg Chan.txHdrMsgid hk :),
    by simpa only [hend] using hprog.out,
    fun hlt => ?_, fun he => hover (hend.mpr he)⟩
  have hne : ch'.unsent s.config ≠ [] := fun hu => hlt.ne (hend.mp hu)
  exact ⟨hprog.regs.job.trans (if_neg hne), hphase hne⟩

/-- Settles O26: the byte string is what is left to write at the call, and a write goes on byte by byte
(`txRaw_progress`), a `TX.RAW` without index and accumulator. -/
theorem txRawEmitsFrame : Obligations.TxRawEmitsFrame := by
  intro s c ch a frame n hc hh hw hn
  obtain ⟨t0, t, ch', hcall, hrun, hprog, hleft⟩ := txRaw_progress hc hh hw hn
  have hk := hprog.regs.kept
  have hend : ch'.unsent s.config = [] ↔ n = frame.length := by
    rw [hleft, List.drop_eq_nil_iff]
    omega
  obtain ⟨hidx, hcrc⟩ := hprog.regs.raw (by cases frame <;> simp [Chan.rawCalled])
  obtain ⟨hphase, hover⟩ := hprog.regs.phase
  refine ⟨t0, t, ch', hcall, hrun, hprog.chan, hprog.call, (receiverKept_of_writeless hk :),
    (workerKept_of_writeless hk :), (congrArg Chan.rxs hk :), (txBufKept_of_writeless hk :), (congrArg Chan.txLen hk :),
    (congrArg Chan.txSeq hk :), hidx, hcrc, (congrArg Chan.txHdrSeq hk :), (congrArg Chan.txHdrMsgid hk :),
    by simpa only [hend] using hprog.out,
    fun hlt => ?_, fun he => hover (hend.mpr he)⟩
  have hne : ch'.unsent s.config ≠ [] := fun hu => hlt.ne (hend.mp hu)
  refine ⟨?_, hphase hne⟩
  rw [hprog.regs.job, ← hleft]
  cases frame with
  | nil => simp at hlt
  | cons b rest => exact if_neg hne

/-- A failed write (R164, R279). -/
theorem raise_txFail_outcome {s : State} {c : ChanId} {ch : Chan} (hc : s.chans[c]? = some ch) (a : Agent) :
    ∃ ch', (s.raise (.txFail c a)).chans[c]? = some ch' ∧ ChanKeptButCtl ch.aborted ch' ∧
      CallKept s (s.raise (.txFail c a)) c a ∧
      (s.raise (.txFail c a)).out = s.out ++ [.signal .fail, .result a .txFail] := by
  rw [State.raise_txFail hc]
  have hget : ((s.signal .fail).setChan c ch.aborted).chans[c]? = some ch.aborted :=
    State.setChan_get_self (s := s.signal .fail) hc _
  obtain ⟨ch', hc', hctl⟩ := State.ret_get hget a .txFail
  exact ⟨ch', hc', hctl,
    ((callKept_output s _ c a).trans (callKept_setChan _ c _ a)).trans (callKept_ret _ c a _), by
      rw [State.ret_out_eq]
      simp⟩

/-- Settles O25: the two events raise `TX_FAIL` for a pending write (`exec_abort`), and a `TX.SEND` is pending before
every byte of its frame (`txSend_progress`). -/
theorem writeAborts : Obligations.WriteAborts := by
  refine ⟨fun s c ch a hc i h => ?_, fun s c ch a msgid n hc hh hw hn => ?_⟩
  · obtain ⟨ch', hc', ⟨ctl, rfl⟩, hcall, hout⟩ := raise_txFail_outcome hc a
    exact ⟨_, _, exec_abort hc h, hc', hcall, hout, rfl, rfl, rfl, rfl, rfl, rfl, rfl, rfl, fun _ => rfl,
      receiverKept_of_registers rfl, ⟨rfl, rfl, rfl, rfl⟩, rfl⟩
  · have hlen := ch.txFrame_length_eq s.config msgid
    obtain ⟨t0, t, ch', hcall, hrun, hprog, hleft⟩ := txSend_progress hc hh hw (msgid := msgid) (n := n) (by omega)
    have hne : ch'.unsent s.config ≠ [] := by
      rw [hleft, Ne, List.drop_eq_nil_iff, hlen]
      omega
    have hjob : ch'.txJob = .send a := hprog.regs.job.trans (if_neg hne)
    obtain ⟨-, -, -, -, hout⟩ := raise_txFail_outcome hprog.chan a
    refine ⟨t0, t, _, hcall, hrun, exec_abort hprog.chan (.inl ⟨hjob, by simp⟩), ?_⟩
    rw [hout, hprog.out, if_neg hne, List.append_nil, List.append_assoc]

end Sys2Proof.Machine

/-! SUPPORT. The agreement of a sender's registers with its phase (`Chan.txInv`, spec/42_tx_transport.md R162, R163):
the operations that write a sender are few, each keeps the agreement, and no other operation writes one. -/

namespace Sys2Proof.Machine

/-! ## Every sender as it was -/

/-- Every sender, and the write pending on it, is as it was. -/
def SendersKept (s t : State) : Prop := t.chans.map Chan.sender = s.chans.map Chan.sender

theorem SendersKept.refl (s : State) : SendersKept s s := Eq.refl _

theorem SendersKept.trans {s t u : State} (h : SendersKept s t) (k : SendersKept t u) : SendersKept s u :=
  Eq.trans k h

theorem SendersKept.setChan {s t : State} (h : SendersKept s t) {c : ChanId} {ch ch' : Chan}
    (hc : t.chans[c]? = some ch) (hs : ch'.sender = ch.sender := by rfl) : SendersKept s (t.setChan c ch') :=
  h.trans (State.setChan_map hc hs)

theorem SendersKept.updChan {s t : State} (h : SendersKept s t) (c : ChanId) {f : Chan → Chan}
    (hf : ∀ ch, (f ch).sender = ch.sender := by intro; rfl) : SendersKept s (t.updChan c f) :=
  h.trans (t.updChan_map c hf)

theorem sendersKept_of_placeless {s t : State} (h : t.chans.map Chan.placeless = s.chans.map Chan.placeless) :
    SendersKept s t := by
  have hcomp : Chan.sender = Chan.sender ∘ Chan.placeless := rfl
  rw [SendersKept, hcomp, ← List.map_map, h, List.map_map]

theorem SendersKept.bcastReturn {s t : State} (h : SendersKept s t) (b : Bcast) (r : Result) :
    SendersKept s (t.bcastReturn b r) :=
  h.trans (sendersKept_of_placeless (t.bcastReturn_placeless b r))

theorem SendersKept.resume {s t : State} (h : SendersKept s t) (a : Agent) (r : Return) :
    SendersKept s (t.resume a r) :=
  h.trans (sendersKept_of_placeless (t.resume_placeless a r))

theorem SendersKept.output {s t : State} (h : SendersKept s t) (o : Output) : SendersKept s (t.output o) := h

theorem SendersKept.signal {s t : State} (h : SendersKept s t) (l : Level) : SendersKept s (t.signal l) := h

theorem SendersKept.setLock {s t : State} (h : SendersKept s t) (m : MediumId) (l : Lock) :
    SendersKept s (t.setLock m l) := h

theorem SendersKept.setReg {s t : State} (h : SendersKept s t) (i : SlotId) (r : Option ChanId) :
    SendersKept s (t.setReg i r) := h

theorem SendersKept.beginBcast {s t : State} (h : SendersKept s t) (caller : BcastCaller) (tag : Nat)
    (body : List Byte) : SendersKept s (t.beginBcast caller tag body) := h

theorem SendersKept.ret {s t : State} (h : SendersKept s t) (a : Agent) (r : Result) : SendersKept s (t.ret a r) :=
  (h.output _).resume a _

theorem SendersKept.raise {s t : State} (h : SendersKept s t) {f : Failure} (hf : ∀ c a, f ≠ .txFail c a) :
    SendersKept s (t.raise f) := by
  refine SendersKept.ret ?_ _ _
  cases f with
  | rxFail c cause => exact (h.signal .fail).updChan c
  | txFail c a => exact absurd rfl (hf c a)
  | encFail a cause => exact h.signal .fail
  | bodyFail a => exact h.signal .fail
  | startFail c => exact h

/-! ## The operations that write no sender -/

/-- The operations that write a sender: its own two, the two that fill its buffer, and the start of a session. -/
def writesSender : Instr → Bool
  | .txSend _ _ => true
  | .txRaw _ _ => true
  | .envEncode _ _ _ _ => true
  | .bcastSend (.copy _) => true
  | .sesStart _ .init => true
  | _ => false

/-- The senders are as in `s` in the next state, if an answer is one. -/
inductive SendersAfter (s : State) : Answer → Prop where
  | fault (f : Fault) : SendersAfter s (.fault f)
  | refused (r : Refusal) : SendersAfter s (.refused r)
  | next {t : State} (h : SendersKept s t) : SendersAfter s (.next t)

theorem SendersAfter.onChan {s : State} {c : ChanId} {f : Chan → Answer}
    (h : ∀ ch, s.chans[c]? = some ch → SendersAfter s (f ch)) : SendersAfter s (s.onChan c f) := by
  cases hc : s.chans[c]? with
  | none =>
    rw [State.onChan_none hc]
    exact .fault _
  | some ch =>
    rw [State.onChan_some hc]
    exact h ch hc

theorem sendersAfter_setChan {s : State} {c : ChanId} {ch ch' : Chan} (hc : s.chans[c]? = some ch)
    (hs : ch'.sender = ch.sender := by rfl) : SendersAfter s (.next (s.setChan c ch')) :=
  .next ((SendersKept.refl s).setChan hc hs)

theorem sendersAfter_self (s : State) : SendersAfter s (.next s) := .next (.refl s)

theorem sendersAfter_ret (s : State) (a : Agent) (r : Result) : SendersAfter s (.next (s.ret a r)) :=
  .next ((SendersKept.refl s).ret a r)

theorem sendersAfter_raise (s : State) {f : Failure} (hf : ∀ c a, f ≠ .txFail c a := by simp) :
    SendersAfter s (.next (s.raise f)) :=
  .next ((SendersKept.refl s).raise hf)

/-! ### Receiver -/

theorem sendersAfter_rxContinue {s : State} {c : ChanId} {ch ch' : Chan} (hc : s.chans[c]? = some ch)
    (hs : ch'.sender = ch.sender := by rfl) : SendersAfter s (.next (s.setChan c ch'.rxContinue)) :=
  sendersAfter_setChan hc (ch'.sender_rxContinue.trans hs)

theorem sendersAfter_rxNoData (s : State) (c : ChanId) : SendersAfter s (rxNoData c s) :=
  .onChan fun _ hc => .next (((SendersKept.refl s).setChan hc).ret _ _)

theorem sendersAfter_rxMidframe (s : State) (c : ChanId) : SendersAfter s (rxMidframe c s) :=
  .onChan fun _ _ => sendersAfter_raise s

theorem sendersAfter_rxPayload (s : State) (c : ChanId) (b : Byte) : SendersAfter s (execRxPayload c b s) := by
  refine .onChan fun ch hc => ?_
  split
  · exact sendersAfter_rxContinue hc
  · exact .fault _

theorem sendersAfter_rxCrc (s : State) (c : ChanId) (b : Byte) : SendersAfter s (execRxCrc c b s) := by
  refine .onChan fun ch hc => ?_
  split
  · exact .next ((((SendersKept.refl s).setChan hc).signal _).ret _ _)
  · exact sendersAfter_raise s

theorem sendersAfter_rxReceive (s : State) (c : ChanId) : SendersAfter s (execRxReceive c s) := by
  refine .onChan fun ch hc => ?_
  split
  · exact sendersAfter_ret s _ _
  · exact sendersAfter_setChan hc

/-! ### Locks -/

theorem sendersAfter_lockAcq (s : State) (a : Agent) (m : MediumId) : SendersAfter s (execLockAcq a m s) := by
  unfold execLockAcq
  split
  · exact .fault _
  · exact .next (((SendersKept.refl s).setLock _ _).resume _ _)
  · exact sendersAfter_self s

theorem sendersAfter_lockRel (s : State) (a : Agent) (m : MediumId) : SendersAfter s (execLockRel a m s) := by
  unfold execLockRel
  split
  · exact .fault _
  · split
    · split
      · exact .refused _
      · exact .next (((SendersKept.refl s).setLock _ _).resume _ _)
    · exact .refused _

/-! ### Envelope codec -/

theorem sendersAfter_envBody (s : State) (v : Variant) (payload : List Byte) :
    SendersAfter s (execEnvBody v payload s) := by
  unfold execEnvBody
  split
  · exact sendersAfter_ret s _ _
  · exact sendersAfter_raise s

theorem sendersAfter_dropSilently (s : State) (c : ChanId) : SendersAfter s (dropSilently c s) :=
  .onChan fun _ hc => sendersAfter_setChan hc

theorem sendersKept_dropBadBody (s : State) (c : ChanId) : SendersKept s (dropBadBody c s) :=
  ((SendersKept.refl s).raise (by simp)).updChan c

theorem sendersAfter_routeToHandler (s : State) (v : Variant) (c : ChanId) (w : BitVec 3) :
    SendersAfter s (routeToHandler v c w s) := by
  refine .onChan fun ch _ => .next ?_
  split
  · exact (((SendersKept.refl s).ret _ _).output _).updChan c
  · exact sendersKept_dropBadBody s c

theorem sendersAfter_decodeAndDiscard (s : State) (v : Variant) (c : ChanId) (w : BitVec 3) :
    SendersAfter s (decodeAndDiscard v c w s) := by
  refine .onChan fun ch _ => .next ?_
  split
  · exact ((SendersKept.refl s).ret _ _).updChan c
  · exact sendersKept_dropBadBody s c

theorem sendersAfter_envMemoryDumpRequest (s : State) (c : ChanId) (w : BitVec 3) :
    SendersAfter s (execEnvMemoryDumpRequest c w s) := by
  unfold execEnvMemoryDumpRequest
  split
  · exact sendersAfter_routeToHandler s _ c w
  · exact sendersAfter_dropSilently s c

/-! ### Registry and broadcast -/

theorem sendersKept_clearSlot {s : State} {c : ChanId} {ch : Chan} (hc : s.chans[c]? = some ch) :
    SendersKept s (clearSlot c ch s) := by
  unfold clearSlot
  split
  · exact ((SendersKept.refl s).setReg _ _).setChan hc
  · exact .refl s

theorem sendersAfter_regClaim (s : State) (c : ChanId) (i : SlotId) : SendersAfter s (execRegClaim c i s) := by
  refine .onChan fun ch hc => ?_
  split
  · split
    · exact .next ((((SendersKept.refl s).setReg _ _).setChan hc).ret _ _)
    · split
      · exact .next ((SendersKept.refl s).resume _ _)
      · exact sendersAfter_raise s
    · exact sendersAfter_raise s
  · exact .refused _

theorem sendersAfter_bcastCall (s : State) (caller : BcastCaller) (t : Nat) (body : List Byte) :
    SendersAfter s (bcastCall caller t body s) := by
  cases caller with
  | driver => exact .next (.refl s)
  | handler c =>
    refine .onChan fun ch hc => ?_
    split
    · exact .next (((SendersKept.refl s).setChan hc).beginBcast _ _ _)
    · exact sendersAfter_self s
  | stop c => exact .onChan fun ch hc => .next (((SendersKept.refl s).setChan hc).beginBcast _ _ _)

theorem sendersAfter_bcastVisit (s : State) (k : BcastId) (i : SlotId) : SendersAfter s (bcastVisit k i s) := by
  unfold bcastVisit
  split
  · exact sendersAfter_self s
  · split <;> exact .next (.refl s)

theorem sendersAfter_bcastFinish (s : State) (k : BcastId) : SendersAfter s (bcastFinish k s) := by
  unfold bcastFinish
  split
  · exact sendersAfter_self s
  · split
    · exact .next ((SendersKept.refl s).bcastReturn _ _)
    · exact sendersAfter_self s

/-! ### Worker -/

theorem sendersAfter_startEvent (s : State) (c : ChanId) : SendersAfter s (startEvent c s) := by
  refine .onChan fun ch hc => ?_
  split
  · exact sendersAfter_setChan hc
  · exact sendersAfter_self s

theorem sendersAfter_sesStatus (s : State) (c : ChanId) (x : StatusInput) : SendersAfter s (execSesStatus c x s) := by
  refine .onChan fun ch hc => ?_
  have hcall : SendersAfter s (.next (statusCall c ch s)) := .next (((SendersKept.refl s).setChan hc).output _)
  cases x with
  | compare =>
    dsimp only
    split
    · exact hcall
    · exact sendersAfter_setChan hc
  | due => exact hcall
  | handlerDone => exact sendersAfter_setChan hc

theorem sendersAfter_sesReceive (s : State) (c : ChanId) : SendersAfter s (execSesReceive c s) := by
  refine .onChan fun ch hc => ?_
  split
  · exact sendersAfter_setChan hc
  · exact sendersAfter_setChan hc
  · exact sendersAfter_self s

theorem sendersAfter_sesDispatch (s : State) (c : ChanId) (x : DispatchInput) :
    SendersAfter s (execSesDispatch c x s) := by
  refine .onChan fun ch hc => ?_
  cases x with
  | pass1 =>
    dsimp only
    split
    · exact sendersAfter_setChan hc
    · exact sendersAfter_setChan hc
  | handlerDone => exact sendersAfter_setChan hc

theorem sendersAfter_sesSend (s : State) (c : ChanId) (t : Nat) (body : List Byte) :
    SendersAfter s (execSesSend c t body s) := by
  refine .onChan fun ch hc => ?_
  split
  · exact sendersAfter_setChan hc
  · exact sendersAfter_self s

theorem sendersAfter_sesStop (s : State) (c : ChanId) : SendersAfter s (execSesStop c s) := by
  refine .onChan fun ch hc => ?_
  split
  · exact .next ((sendersKept_clearSlot hc).updChan c)
  · exact sendersAfter_bcastCall s _ _ _
  · exact sendersAfter_self s

/-- Every operation outside `writesSender`. -/
theorem sendersAfter_exec {i : Instr} (hi : writesSender i = false) (s : State) : SendersAfter s (exec i s) := by
  cases i with
  | crc8Update r b => exact sendersAfter_ret s _ _
  | crc8Block r buf => exact sendersAfter_ret s _ _
  | rxStart c => exact .onChan fun ch hc => sendersAfter_rxContinue hc
  | rxDiscard c b => exact .onChan fun ch hc => sendersAfter_rxContinue hc
  | rxSeq c b => exact .onChan fun ch hc => sendersAfter_rxContinue hc
  | rxMsgid c b => exact .onChan fun ch hc => sendersAfter_rxContinue hc
  | rxLen c b => exact .onChan fun ch hc => sendersAfter_rxContinue hc
  | rxPayload c b => exact sendersAfter_rxPayload s c b
  | rxCrc c b => exact sendersAfter_rxCrc s c b
  | rxIdleTmo c => exact sendersAfter_rxNoData s c
  | rxBulkTmo c => exact sendersAfter_rxMidframe s c
  | rxIdleRst c => exact sendersAfter_rxNoData s c
  | rxBulkRst c => exact sendersAfter_rxMidframe s c
  | rxReceive c => exact sendersAfter_rxReceive s c
  | lockAcq a m => exact sendersAfter_lockAcq s a m
  | lockRel a m => exact sendersAfter_lockRel s a m
  | envDiscriminate payload => exact sendersAfter_ret s _ _
  | envBody v payload => exact sendersAfter_envBody s v payload
  | regClaim c j => exact sendersAfter_regClaim s c j
  | regClear c => exact .onChan fun ch hc => .next (sendersKept_clearSlot hc)
  | bcastSend x =>
    cases x with
    | call caller t body => exact sendersAfter_bcastCall s caller t body
    | visit k j => exact sendersAfter_bcastVisit s k j
    | copy k => cases hi
    | finish k => exact sendersAfter_bcastFinish s k
  | sesStart c x =>
    cases x with
    | event => exact sendersAfter_startEvent s c
    | init => cases hi
    | arm => exact .onChan fun ch hc => sendersAfter_setChan hc
    | enter => exact .onChan fun ch hc => sendersAfter_setChan hc
  | sesCheckTerm c => exact .onChan fun ch hc => sendersAfter_setChan hc
  | sesStatus c x => exact sendersAfter_sesStatus s c x
  | sesReceive c => exact sendersAfter_sesReceive s c
  | sesDispatch c x => exact sendersAfter_sesDispatch s c x
  | sesSend c t body => exact sendersAfter_sesSend s c t body
  | sesStop c => exact sendersAfter_sesStop s c
  | frame c seq msgid payload crc => exact .onChan fun ch hc => sendersAfter_setChan hc
  | envStatus c w => exact sendersAfter_dropSilently s c
  | envStatusText c w => exact sendersAfter_dropSilently s c
  | envTimeReference c w => exact sendersAfter_routeToHandler s _ c w
  | envCommand c w => exact sendersAfter_routeToHandler s _ c w
  | envParamRequest c w => exact sendersAfter_routeToHandler s _ c w
  | envParamSet c w => exact sendersAfter_routeToHandler s _ c w
  | envParamValue c w => exact sendersAfter_dropSilently s c
  | envLogRequest c w => exact sendersAfter_decodeAndDiscard s _ c w
  | envMemoryDumpRequest c w => exact sendersAfter_envMemoryDumpRequest s c w
  | envMemoryDumpPage c w => exact sendersAfter_dropSilently s c
  | _ => cases hi

theorem exec_sendersKept {i : Instr} {s t : State} (hi : writesSender i = false) (h : exec i s = .next t) :
    SendersKept s t := by
  have ha := sendersAfter_exec hi s
  rw [h] at ha
  cases ha with
  | next hk => exact hk

/-! ## The agreement of all senders -/

theorem State.txInv.get {s : State} (h : s.txInv) {c : ChanId} {ch : Chan} (hc : s.chans[c]? = some ch) :
    ch.txInv s.config :=
  h ch (List.mem_of_getElem? hc)

theorem State.txInv.setChan {s : State} (h : s.txInv) (c : ChanId) {ch' : Chan} (hc : ch'.txInv s.config) :
    (s.setChan c ch').txInv := by
  intro d hd
  rcases List.mem_or_eq_of_mem_set hd with hd | rfl
  · exact h d hd
  · exact hc

/-- Where no write is pending the agreement speaks of the phase alone. -/
theorem State.txInv.setIdle {s : State} (h : s.txInv) (c : ChanId) {ch' : Chan} (hj : ch'.txJob = .none)
    (hp : ch'.txPhase = .idle) : (s.setChan c ch').txInv := by
  refine h.setChan c ?_
  rw [Chan.txInv, hj]
  exact hp

theorem State.txInv.congr {s t : State} (h : s.txInv) (hconfig : t.config = s.config) (hk : SendersKept s t) :
    t.txInv := by
  intro ch hch
  have hm : ch.sender ∈ s.chans.map Chan.sender := by
    rw [← hk]
    exact List.mem_map_of_mem hch
  obtain ⟨dh, hdh, hsender⟩ := List.mem_map.mp hm
  rw [hconfig]
  exact (h dh hdh).congr hsender.symm

theorem State.txInv.resume {s : State} (h : s.txInv) (a : Agent) (r : Return) : (s.resume a r).txInv :=
  h.congr (State.resume_config ..) ((SendersKept.refl s).resume a r)

theorem State.txInv.ret {s : State} (h : s.txInv) (a : Agent) (r : Result) : (s.ret a r).txInv :=
  h.congr (State.ret_config ..) ((SendersKept.refl s).ret a r)

theorem State.txInv.wrote {s : State} (h : s.txInv) {c : ChanId} {b : Byte} {ch' : Chan} (hc : ch'.txInv s.config)
    (a : Agent) : (s.wrote c a b ch').txInv := by
  have hemit : ((s.setChan c ch').emit c b).txInv := h.setChan c hc
  unfold State.wrote
  split
  · exact hemit.ret a _
  · exact hemit

/-- A failed write is no longer pending (R164). -/
theorem State.txInv.raise_txFail {s : State} (h : s.txInv) {c : ChanId} {ch : Chan} (hc : s.chans[c]? = some ch)
    (a : Agent) : (s.raise (.txFail c a)).txInv := by
  rw [State.raise_txFail hc]
  exact State.txInv.ret (State.txInv.setIdle (s := s.signal .fail) h c rfl rfl) a _

/-! ## The operations that write a sender -/

/-- On a medium without a pending write none is pending on any of its channels (R165). -/
theorem State.txJob_of_writePending {s : State} {c : ChanId} {ch : Chan} (hc : s.chans[c]? = some ch)
    (hw : s.writePending (s.mediumOf c) = false) : ch.txJob = .none := by
  have hm : (ch, c) ∈ s.chans.zipIdx := List.mem_zipIdx_iff_getElem?.mpr hc
  simpa using List.any_eq_false.mp hw (ch, c) hm

/-- An operation that used the transport for sending was called by the holder of the lock, with no write pending. -/
theorem State.onTransport_next {s t : State} {a : Agent} {c : ChanId} {f : Chan → Answer}
    (h : s.onTransport a c f = .next t) :
    ∃ ch, s.chans[c]? = some ch ∧ s.holds a c = true ∧ s.writePending (s.mediumOf c) = false ∧ f ch = .next t := by
  obtain ⟨ch, hc, h⟩ := State.onChan_next h
  split at h
  · split at h
    · cases h
    · rename_i hh hw
      exact ⟨ch, hc, hh, by simpa using hw, h⟩
  · cases h

section Writers

variable {s t : State} (hs : s.txInv)
include hs

theorem sendReady_txInv {c : ChanId} (h : exec (.txSend c .ready) s = .next t) : t.txInv := by
  obtain ⟨ch, hc, hf⟩ := State.onChan_next h
  cases hj : ch.txJob with
  | send a =>
    obtain ⟨b, ch', he, hw⟩ := exec_sendReady hc hj (hs.get hc)
    rw [he] at h
    cases h
    exact hs.wrote hw.txInv a
  | _ =>
    rw [hj] at hf
    cases hf
    exact hs

theorem sendAbort_txInv {c : ChanId} (h : sendAbort c s = .next t) : t.txInv := by
  obtain ⟨ch, hc, hf⟩ := State.onChan_next h
  split at hf
  · cases hf
    exact hs.raise_txFail hc _
  · cases hf
    exact hs

theorem txSend_txInv {c : ChanId} {x : SendInput} (h : exec (.txSend c x) s = .next t) : t.txInv := by
  cases x with
  | call a msgid =>
    obtain ⟨ch, hc, hh, hw, -⟩ := State.onTransport_next h
    rw [exec_sendCall hc hh hw] at h
    cases h
    exact (hs.setChan c (ch.sendCalled_txInv s.config a msgid)).resume a _
  | ready => exact sendReady_txInv hs h
  | timeout => exact sendAbort_txInv hs h
  | chReset => exact sendAbort_txInv hs h

theorem rawCall_txInv {c : ChanId} {a : Agent} {frame : List Byte} (h : exec (.txRaw c (.call a frame)) s = .next t) :
    t.txInv := by
  obtain ⟨ch, hc, hh, hw, -⟩ := State.onTransport_next h
  have hcall : ((s.setChan c (ch.rawCalled a frame)).resume a .accepted).txInv :=
    (hs.setChan c (ch.rawCalled_txInv s.config a frame)).resume a _
  rw [exec_rawCall hc hh hw] at h
  cases h
  split
  · exact hcall.ret a _
  · exact hcall

theorem rawReady_txInv {c : ChanId} (h : exec (.txRaw c .ready) s = .next t) : t.txInv := by
  obtain ⟨ch, hc, hf⟩ := State.onChan_next h
  split at hf
  · rename_i a b rest hj
    rw [exec_rawReady hc hj] at h
    cases h
    exact hs.wrote (Chan.rawTaken_written s.config hj).txInv a
  · cases hf
    exact hs

theorem rawAbort_txInv {c : ChanId} (h : rawAbort c s = .next t) : t.txInv := by
  obtain ⟨ch, hc, hf⟩ := State.onChan_next h
  split at hf
  · cases hf
    exact hs.raise_txFail hc _
  · cases hf
    exact hs

theorem txRaw_txInv {c : ChanId} {x : RawInput} (h : exec (.txRaw c x) s = .next t) : t.txInv := by
  cases x with
  | call a frame => exact rawCall_txInv hs h
  | ready => exact rawReady_txInv hs h
  | timeout => exact rawAbort_txInv hs h
  | chReset => exact rawAbort_txInv hs h

/-- The buffer and the length of a sender without a pending write are filled. -/
theorem State.txInv.fill {c : ChanId} {ch : Chan} (hc : s.chans[c]? = some ch)
    (hw : s.writePending (s.mediumOf c) = false) (buf : Memory) (len : Byte) :
    (s.setChan c { ch with txBuf := buf, txLen := len }).txInv := by
  have hj := State.txJob_of_writePending hc hw
  have hch := hs.get hc
  rw [Chan.txInv, hj] at hch
  exact hs.setIdle c hj hch

theorem envEncode_txInv {a : Agent} {c : ChanId} {tag : Nat} {body : List Byte}
    (h : exec (.envEncode a c tag body) s = .next t) : t.txInv := by
  have fails (cause : EncCause) : (s.raise (.encFail a cause)).txInv := State.txInv.ret (s := s.signal .fail) hs a _
  obtain ⟨ch, hc, -, hw, hf⟩ := State.onTransport_next h
  split at hf
  · cases hf
    exact fails _
  · dsimp only at hf
    split at hf
    · cases hf
      exact fails _
    · cases hf
      exact (hs.fill hc hw _ _).ret a _

theorem bcastCopy_txInv {k : BcastId} (h : exec (.bcastSend (.copy k)) s = .next t) : t.txInv := by
  have hcopy : bcastCopy k s = .next t := h
  unfold bcastCopy at hcopy
  split at hcopy
  · cases hcopy
    exact hs
  · split at hcopy
    · obtain ⟨ch, hc, -, hw, hf⟩ := State.onTransport_next hcopy
      cases hf
      exact hs.fill hc hw _ _
    · cases hcopy
      exact hs

/-- Every operation but the start of a session keeps the agreement in every state. -/
theorem exec_txInv {i : Instr} (hi : ∀ c, i ≠ .sesStart c .init) (h : exec i s = .next t) : t.txInv := by
  by_cases hw : writesSender i = true
  · unfold writesSender at hw
    split at hw
    · exact txSend_txInv hs h
    · exact txRaw_txInv hs h
    · exact envEncode_txInv hs h
    · exact bcastCopy_txInv hs h
    · exact absurd rfl (hi _)
    · cases hw
  · exact hs.congr (exec_keeps h).config (exec_sendersKept (Bool.eq_false_iff.mpr hw) h)

/-- A session starts where no write is pending on its channel. -/
theorem startInit_txInv {c : ChanId} (h : exec (.sesStart c .init) s = .next t)
    (hidle : ∀ ch, s.chans[c]? = some ch → ch.txJob = .none) : t.txInv := by
  obtain ⟨ch, hc, hf⟩ := State.onChan_next h
  cases hf
  exact hs.setIdle c (hidle ch hc) rfl

end Writers

/-! ## Every selected operation -/

/-- A worker starts its session at the place of R221's transport writes, and its own only. -/
theorem workerOp_startInit {s : State} {c d : ChanId} {ch : Chan} (h : workerOp s c ch = some (.sesStart d .init)) :
    d = c ∧ ch.ctl = .startInit := by
  unfold workerOp at h
  split at h
  case h_1 =>
    unfold phaseOp at h
    split at h
    case h_6 => split at h <;> cases h
    all_goals cases h
  case h_3 hctl => cases h; exact ⟨rfl, hctl⟩
  case h_11 v _ w _ => cases v <;> cases h
  all_goals cases h

theorem bcastOp_ne_startInit (s : State) (b : Bcast) (j : SlotId) (c : ChanId) :
    bcastOp s b j ≠ some (.sesStart c .init) := by
  intro h
  have htouch := bcastOp_touches h c
  simp [touchesReceiver] at htouch

theorem decodeRx_ne_startInit (start : Byte) (st : RxState) (c d : ChanId) (e : RxEvent) :
    decodeRx start st c e ≠ .sesStart d .init := by
  unfold decodeRx
  split
  · split
    case h_1 => split <;> simp
    all_goals simp
  · split <;> simp
  · split <;> simp

/-- `SES.START`'s transport writes run for a worker at their place only. -/
theorem Runs.startInit {s t : State} {c : ChanId} (h : Runs s (.sesStart c .init) t) :
    t.chans = s.chans ∧ ∃ ch, s.chans[c]? = some ch ∧ ch.ctl = .startInit := by
  generalize hi : Instr.sesStart c .init = i at h
  cases h with
  | worker hc ho script =>
    obtain ⟨rfl, hctl⟩ := workerOp_startInit (hi ▸ ho)
    exact ⟨rfl, _, hc, hctl⟩
  | receiver hc _ _ rxs e => exact absurd hi.symm (decodeRx_ne_startInit _ _ _ _ _)
  | bcast _ ho => exact absurd (hi ▸ ho) (bcastOp_ne_startInit _ _ _ _)
  | _ => cases hi

/-- No write is pending on a channel whose session starts. -/
def State.startersIdle (s : State) : Prop :=
  ∀ (c : ChanId) (ch : Chan), s.chans[c]? = some ch → ch.ctl = .startInit → ch.txJob = .none

/-- A worker that starts its session holds the lock, and its own write would be a reply's (R71, R165, R221). -/
theorem State.lockInv.startersIdle {s : State} (h : s.lockInv) : s.startersIdle := by
  intro c ch hc hctl
  have hlock := h.worker c ch hc (by rw [hctl]; rfl)
  have hcaller (a : Agent) (ha : ch.txJob.caller = some a) : False := by
    have hjob := h.job c ch a hc ha
    obtain rfl : Agent.worker c = a := by simpa [hlock] using hjob
    obtain ⟨-, hd, hwait⟩ := h.jobWorker c ch c hc ha
    simp [hctl] at hwait
  cases hj : ch.txJob with
  | none => rfl
  | send a => exact (hcaller a (by rw [hj]; rfl)).elim
  | raw a rest => exact (hcaller a (by rw [hj]; rfl)).elim

/-- Every operation that a step runs keeps the agreement. -/
theorem Runs.exec_txInv {s t u : State} {i : Instr} (h : Runs s i t) (hs : s.txInv) (hidle : s.startersIdle)
    (he : exec i t = .next u) : u.txInv := by
  have ht : t.txInv := h.txInv hs
  by_cases hi : ∃ c, i = .sesStart c .init
  · obtain ⟨c, rfl⟩ := hi
    obtain ⟨hchans, ch, hc, hctl⟩ := h.startInit
    refine startInit_txInv ht he fun dh hd => ?_
    obtain rfl : ch = dh := Option.some_inj.mp (hc.symm.trans (hchans ▸ hd))
    exact hidle c ch hc hctl
  · exact Machine.exec_txInv ht (fun c hc => hi ⟨c, hc⟩) he

/-- Settles O27: every operation that runs keeps the agreement (`Runs.exec_txInv`); the stimuli's own answers write no
sender but a reset's, after which no write is pending. -/
theorem senderInvariantKept : Obligations.SenderInvariantKept := by
  intro s t hl hs h
  rcases step_carriesOut s with hn | ⟨σ, rest, p, -, hp, ho⟩
  · rw [hn] at h
    cases h
    exact hs
  · rw [ho] at h
    have hrest : { s with script := rest }.txInv := hs
    cases hp with
    | run hr => exact hr.exec_txInv hrest hl.startersIdle h
    | idle script => cases h; exact hs
    | held hc rxs => cases h; exact hrest.setChan _ (hs.get hc : _)
    | terminate hc => cases h; exact hrest.setChan _ (hs.get hc : _)
    | rst hlegal =>
      cases h
      intro ch hch
      obtain ⟨dh, -, rfl⟩ := List.mem_map.mp hch
      exact Eq.refl TxPhase.idle
    | clock now => cases h; exact hs
    | medium c hlock => cases h; exact hs
    | noChannel | noMedium | refused => cases h

end Sys2Proof.Machine

/-! SUPPORT. The envelope codec (spec/43_envelope_codec.md R176 to R182): what pass 1 finds at a key, what pass 2 extracts,
that both read an envelope back, and `ENV.ENCODE` as an equation. -/

namespace Sys2Proof.Machine

/-! ## A byte of a block -/

theorem Memory.readN_get (m : Memory) {i n j : Nat} (hj : j < n) :
    (Memory.readN m i n)[j]? = some (Memory.read m (i + j)) := by
  induction n generalizing i j with
  | zero => omega
  | succ n ih =>
    cases j with
    | zero => rfl
    | succ j => simpa [Memory.readN, Nat.add_assoc, Nat.add_comm 1] using ih (i := i + 1) (Nat.lt_of_succ_lt_succ hj)

/-- A byte of a block write reads as written. -/
theorem Memory.read_writeN_inside {m : Memory} (h : Memory.wf m = true) {i j : Nat} {bs : List Byte} {x : Byte}
    (hx : bs[j]? = some x) : Memory.read (Memory.writeN m i bs) (i + j) = x := by
  have hj : j < bs.length := (List.getElem?_eq_some_iff.mp hx).1
  have hread := Memory.readN_get (Memory.writeN m i bs) (i := i) hj
  rw [Memory.readN_writeN h, hx] at hread
  exact (Option.some_inj.mp hread).symm

/-! ## Pass 1 at a key -/

/-- A field with a known number ends the scan, just after its key. -/
theorem scanFields_found {k : Config} {bs : List Byte} {key n : Nat} {v : Variant} (hr : readVarint bs = some (key, n))
    (hv : variantOf k (keyField key) = some v) (fuel pos : Nat) :
    scanFields k (fuel + 1) pos bs = some (v, pos + n, keyWire key) := by
  have h0 : keyField key ≠ 0 := fun h => by simp [variantOf, h] at hv
  cases bs with
  | nil => cases hr
  | cons b bs => simp [scanFields, hr, h0, hv]

/-- Field number 0 ends the scan with nothing found. -/
theorem scanFields_zero {k : Config} {bs : List Byte} {key n : Nat} (hr : readVarint bs = some (key, n))
    (h0 : keyField key = 0) (fuel pos : Nat) : scanFields k (fuel + 1) pos bs = none := by
  simp [scanFields, hr, h0]

/-- An unknown field whose value cannot be skipped ends the scan with nothing found. -/
theorem scanFields_unskippable {k : Config} {bs : List Byte} {key n : Nat} (hr : readVarint bs = some (key, n))
    (hv : variantOf k (keyField key) = none) (hs : skipField (keyWire key) (bs.drop n) = none) (fuel pos : Nat) :
    scanFields k (fuel + 1) pos bs = none := by
  simp [scanFields, hr, hv, hs]

/-- The groups and the unassigned wire types are not skipped (R179). -/
theorem skipField_none {w : BitVec 3} (h : w = 3 ∨ w = 4 ∨ w = 6 ∨ w = 7) (bs : List Byte) : skipField w bs = none := by
  rcases h with rfl | rfl | rfl | rfl <;> rfl

/-- A known key at the front of a payload is what pass 1 finds. -/
theorem discriminate_known {k : Config} {n : Nat} {w : BitVec 3} {v : Variant} (hkey : keyOf n w < 2 ^ 64)
    (hv : variantOf k n = some v) (rest : List Byte) :
    discriminate k (varint (keyOf n w) ++ rest) = some (v, (varint (keyOf n w)).length, w) := by
  rw [discriminate, scanFields_found (readVarint_varint hkey rest) (by simpa using hv)]
  simp

/-! ## The two passes as operations -/

theorem exec_envDiscriminate (s : State) (payload : List Byte) :
    exec (.envDiscriminate payload) s =
      .next { s with out := s.out ++ [.result .driver (discriminateResult s.config payload)] } := rfl

theorem exec_envBody_ok {s : State} {v : Variant} {payload : List Byte} {x : BodyVal}
    (h : decodeBody s.config v payload = some x) :
    exec (.envBody v payload) s = .next { s with out := s.out ++ [.result .driver (.bodyOk v x)] } := by
  change execEnvBody v payload s = _
  rw [execEnvBody, h]
  rfl

theorem exec_envBody_fail {s : State} {v : Variant} {payload : List Byte} (h : decodeBody s.config v payload = none) :
    exec (.envBody v payload) s = .next { s with out := s.out ++ [.signal .fail, .result .driver .bodyFail] } := by
  change execEnvBody v payload s = _
  rw [execEnvBody, h]
  simp [State.raise_bodyFail, State.ret_driver, State.output, State.signal]

/-- Settles O32: pass 1 answers `discriminateResult`, and at a key the scan ends in one of three ways
(`scanFields_found`, `scanFields_zero`, `scanFields_unskippable`). -/
theorem discriminateReadsOnly : Obligations.DiscriminateReadsOnly := by
  refine ⟨fun s payload => ⟨fun v off w h => ?_, fun h => ?_⟩, fun k n w rest hkey =>
    ⟨rfl, fun v hv => discriminate_known hkey hv rest, fun h0 => ?_, fun hv hw => ?_⟩⟩
  · rw [exec_envDiscriminate, discriminateResult, h]
  · rw [exec_envDiscriminate, discriminateResult, h]
  · exact scanFields_zero (readVarint_varint hkey rest) (by simpa using h0) _ _
  · exact scanFields_unskippable (readVarint_varint hkey rest) (by simpa using hv)
      (by simpa using skipField_none hw _) _ _

/-! ## Pass 2 -/

theorem fieldBody_eq_some_iff {bs body : List Byte} :
    fieldBody bs = some body ↔
      ∃ n p, readVarint bs = some (n, p) ∧ p + n ≤ bs.length ∧ (bs.drop p).take n = body := by
  unfold fieldBody
  cases hr : readVarint bs with
  | none => simp
  | some r =>
    obtain ⟨n, p⟩ := r
    simp

theorem bodyBytes_found {k : Config} {v : Variant} {payload : List Byte} {off : Nat}
    (hd : discriminate k payload = some (v, off, 2)) : bodyBytes k v payload = fieldBody (payload.drop off) := by
  simp [bodyBytes, hd]

/-- Pass 2 extracts the bytes of a length-delimited field of the variant that pass 1 finds and whose value lies inside
the payload (R180). -/
theorem bodyBytes_eq_some_iff {k : Config} {v : Variant} {payload body : List Byte} :
    bodyBytes k v payload = some body ↔
      ∃ off n p, discriminate k payload = some (v, off, 2) ∧ readVarint (payload.drop off) = some (n, p) ∧
        off + p + n ≤ payload.length ∧ ((payload.drop off).drop p).take n = body := by
  constructor
  · intro h
    obtain ⟨off, hd⟩ : ∃ off, discriminate k payload = some (v, off, 2) := by
      unfold bodyBytes at h
      split at h
      · split at h
        · rename_i off w hd hm
          obtain ⟨rfl, rfl⟩ := hm
          exact ⟨off, hd⟩
        · cases h
      · cases h
    rw [bodyBytes_found hd] at h
    obtain ⟨n, p, hr, hlen, hbody⟩ := fieldBody_eq_some_iff.mp h
    have hp := (readVarint_bound hr).1
    rw [List.length_drop] at hlen
    exact ⟨off, n, p, hd, hr, by omega, hbody⟩
  · rintro ⟨off, n, p, hd, hr, hlen, hbody⟩
    rw [bodyBytes_found hd]
    exact fieldBody_eq_some_iff.mpr ⟨n, p, hr, by rw [List.length_drop]; omega, hbody⟩

theorem decodeBody_eq_some_iff {k : Config} {v : Variant} {payload : List Byte} {x : BodyVal} :
    decodeBody k v payload = some x ↔
      ∃ body, bodyBytes k v payload = some body ∧ bodyDecode k v body = some x :=
  Option.bind_eq_some_iff

/-- Settles O33: pass 2 gives a value only for a body it extracts (`bodyBytes_eq_some_iff`) and the codec accepts. -/
theorem bodyDecodeResult : Obligations.BodyDecodeResult := by
  refine fun s v payload => ⟨fun off n p x hd hr hlen hx => ⟨bodyDecode_ok hx, exec_envBody_ok ?_⟩,
    fun h => exec_envBody_fail ?_⟩
  · exact decodeBody_eq_some_iff.mpr ⟨_, bodyBytes_eq_some_iff.mpr ⟨off, n, p, hd, hr, hlen, rfl⟩, hx⟩
  · refine Option.eq_none_iff_forall_ne_some.mpr fun x hx => ?_
    obtain ⟨body, hb, hdec⟩ := decodeBody_eq_some_iff.mp hx
    obtain ⟨off, n, p, hd, hr, hlen, rfl⟩ := bodyBytes_eq_some_iff.mp hb
    exact h off n p x hd hr hlen hdec

/-! ## The envelope read back -/

/-- Pass 1 finds the variant of an envelope's tag, and pass 2 extracts the body it was made of. -/
theorem envelope_readsBack {k : Config} {v : Variant} {t : Nat} {body : List Byte} (hv : variantOf k t = some v)
    (hkey : keyOf t lengthDelimited < 2 ^ 64) (hbody : body.length < 2 ^ 64) :
    discriminate k (envelope t body) = some (v, (varint (keyOf t lengthDelimited)).length, 2) ∧
    bodyBytes k v (envelope t body) = some body := by
  have hd := discriminate_known hkey hv (varint body.length ++ body)
  refine ⟨hd, (bodyBytes_found hd).trans (fieldBody_eq_some_iff.mpr ?_)⟩
  exact ⟨body.length, (varint body.length).length, by simpa using readVarint_varint hbody body, by simp, by simp⟩

/-- At the tags of R98 each variant's tag is its own, and its key takes one byte. -/
theorem tagOf_default {k : Config} (h : k.tags = [1, 2, 3, 4, 5, 6, 7, 8, 9, 10]) (v : Variant) :
    variantOf k (tagOf k v) = some v ∧ keyOf (tagOf k v) lengthDelimited < 128 := by
  cases v <;> simp [variantOf, tagOf, h, Variant.all, Variant.index, keyOf]

theorem varint_length_of_lt {v : Nat} (hv : v < 128) : (varint v).length = 1 := by
  simp [varint, varintBytes, hv]

/-- A body of at most 252 bytes takes at most 255 with a key of one byte: its length takes two at most. -/
theorem envelope_length_le {t : Nat} {body : List Byte} (ht : keyOf t lengthDelimited < 128) (hb : body.length ≤ 252) :
    (envelope t body).length ≤ lenMax := by
  have hlen : (varint body.length).length ≤ 2 := varintBytes_length_le (by omega) (by omega) 10
  simp only [envelope, List.length_append, varint_length_of_lt ht, lenMax]
  omega

/-! ## `ENV.ENCODE` -/

/-- Why `ENV.ENCODE` fails, if it does; the unknown tag is tested first (R176). -/
def encodeFailure (k : Config) (tag : Nat) (body : List Byte) : Option EncCause :=
  if variantOf k tag = none then some .unknownTag
  else if lenMax < (envelope tag body).length then some .tooLong
  else none

theorem encodeFailure_unknownTag {k : Config} {tag : Nat} (hv : variantOf k tag = none) (body : List Byte) :
    encodeFailure k tag body = some .unknownTag :=
  if_pos hv

theorem encodeFailure_tooLong {k : Config} {tag : Nat} {body : List Byte} (hv : variantOf k tag ≠ none)
    (hl : lenMax < (envelope tag body).length) : encodeFailure k tag body = some .tooLong :=
  (if_neg hv).trans (if_pos hl)

theorem encodeFailure_none {k : Config} {tag : Nat} {body : List Byte} (hv : variantOf k tag ≠ none)
    (hl : (envelope tag body).length ≤ lenMax) : encodeFailure k tag body = none :=
  (if_neg hv).trans (if_neg (Nat.not_lt.mpr hl))

/-- A channel with the payload `p` to send. -/
def Chan.loaded (ch : Chan) (p : List Byte) : Chan :=
  { ch with
    txBuf := Memory.writeN ch.txBuf 0 p
    txLen := BitVec.ofNat 8 p.length }

theorem Chan.loaded_txLen (ch : Chan) {p : List Byte} (hp : p.length ≤ lenMax) :
    (ch.loaded p).txLen.toNat = p.length :=
  Nat.mod_eq_of_lt (Nat.lt_succ_of_le hp)

theorem Chan.loaded_txPayload {ch : Chan} (h : Memory.wf ch.txBuf = true) {p : List Byte} (hp : p.length ≤ lenMax) :
    (ch.loaded p).txPayload = p := by
  rw [Chan.txPayload, Chan.loaded_txLen ch hp]
  exact Memory.readN_writeN h 0 p

theorem Chan.loaded_read (ch : Chan) (h : Memory.wf ch.txBuf = true) {p : List Byte} {i : Nat} {x : Byte}
    (hx : p[i]? = some x) : Memory.read (ch.loaded p).txBuf i = x := by
  have hread := Memory.read_writeN_inside h (i := 0) hx
  rwa [Nat.zero_add] at hread

theorem Chan.loaded_read_beyond (ch : Chan) (h : Memory.wf ch.txBuf = true) {p : List Byte} {i : Nat}
    (hi : p.length ≤ i) : Memory.read (ch.loaded p).txBuf i = Memory.read ch.txBuf i :=
  Memory.read_writeN_outside h p (.inr (by omega))

section Encode

variable {s : State} {c : ChanId} {ch : Chan} {a : Agent} (hc : s.chans[c]? = some ch) (hh : s.holds a c = true)
  (hw : s.writePending (s.mediumOf c) = false) {tag : Nat} {body : List Byte}
include hc hh hw

theorem exec_envEncode_failed {cause : EncCause} (hf : encodeFailure s.config tag body = some cause) :
    exec (.envEncode a c tag body) s = .next (s.raise (.encFail a cause)) := by
  refine (State.onTransport_some hc hh hw _).trans ?_
  cases hv : variantOf s.config tag with
  | none =>
    obtain rfl := Option.some_inj.mp ((encodeFailure_unknownTag hv body).symm.trans hf)
    rfl
  | some v =>
    have hk : variantOf s.config tag ≠ none := by simp [hv]
    by_cases hl : lenMax < (envelope tag body).length
    · obtain rfl := Option.some_inj.mp ((encodeFailure_tooLong hk hl).symm.trans hf)
      exact if_pos hl
    · cases hf.symm.trans (encodeFailure_none hk (Nat.not_lt.mp hl))

theorem exec_envEncode_ok (hf : encodeFailure s.config tag body = none) :
    exec (.envEncode a c tag body) s = .next ((s.setChan c (ch.loaded (envelope tag body))).ret a .encOk) := by
  refine (State.onTransport_some hc hh hw _).trans ?_
  cases hv : variantOf s.config tag with
  | none => cases hf.symm.trans (encodeFailure_unknownTag hv body)
  | some v => exact if_neg fun hl => nomatch hf.symm.trans (encodeFailure_tooLong (by simp [hv]) hl)

/-- A successful `ENV.ENCODE`: the envelope is in the send buffer, and nothing else but the caller's place changes. -/
theorem envEncode_outcome (hf : encodeFailure s.config tag body = none) :
    ∃ t ch', exec (.envEncode a c tag body) s = .next t ∧ t.chans[c]? = some ch' ∧
      ChanKeptButCtl (ch.loaded (envelope tag body)) ch' ∧ CallKept s t c a ∧ t.out = s.out ++ [.result a .encOk] := by
  obtain ⟨ch', hc', hctl⟩ := State.ret_get (State.setChan_get_self hc (ch.loaded (envelope tag body))) a .encOk
  exact ⟨_, ch', exec_envEncode_ok hc hh hw hf, hc', hctl,
    (callKept_setChan s c _ a).trans (callKept_ret _ c a _), State.ret_out_eq _ a _⟩

end Encode

/-- A failed `ENV.ENCODE` (R278). -/
theorem raise_encFail_outcome {s : State} {c : ChanId} {ch : Chan} (hc : s.chans[c]? = some ch) (a : Agent)
    (cause : EncCause) :
    ∃ ch', (s.raise (.encFail a cause)).chans[c]? = some ch' ∧ ChanKeptButCtl ch ch' ∧
      CallKept s (s.raise (.encFail a cause)) c a ∧
      (s.raise (.encFail a cause)).out = s.out ++ [.signal .fail, .result a (.encFail cause)] := by
  rw [State.raise_encFail]
  obtain ⟨ch', hc', hctl⟩ := State.ret_get (s := s.signal .fail) hc a (.encFail cause)
  exact ⟨ch', hc', hctl, (callKept_output s _ c a).trans (callKept_ret _ c a _), by
    rw [State.ret_out_eq]
    simp⟩

/-- Settles O31: `ENV.ENCODE` fails for the cause `encodeFailure` gives, and loads the envelope where it gives none. -/
theorem encodeWritesEnvelope : Obligations.EncodeWritesEnvelope := by
  intro s c ch a tag body hc hh hw hwf
  cases hf : encodeFailure s.config tag body with
  | some cause =>
    obtain ⟨ch', hc', ⟨ctl, rfl⟩, hcall, hout⟩ := raise_encFail_outcome hc a cause
    refine ⟨_, _, exec_envEncode_failed hc hh hw hf, hc', hcall, receiverKept_of_registers rfl, ⟨rfl, rfl, rfl, rfl⟩,
      rfl, rfl, rfl, rfl, rfl, rfl, rfl, rfl, fun hv => ⟨fun _ => rfl, rfl, ?_⟩,
      fun hv hl => ⟨fun _ => rfl, rfl, ?_⟩, fun hv hl => nomatch hf.symm.trans (encodeFailure_none hv hl)⟩
    · obtain rfl := Option.some_inj.mp (hf.symm.trans (encodeFailure_unknownTag hv body))
      exact hout
    · obtain rfl := Option.some_inj.mp (hf.symm.trans (encodeFailure_tooLong hv hl))
      exact hout
  | none =>
    obtain ⟨t, ch', hexec, hc', ⟨ctl, rfl⟩, hcall, hout⟩ := envEncode_outcome hc hh hw hf
    exact ⟨t, _, hexec, hc', hcall, receiverKept_of_registers rfl, ⟨rfl, rfl, rfl, rfl⟩,
      rfl, rfl, rfl, rfl, rfl, rfl, rfl, rfl,
      fun hv => (nomatch hf.symm.trans (encodeFailure_unknownTag hv body)),
      fun hv hl => (nomatch hf.symm.trans (encodeFailure_tooLong hv hl)),
      fun _ hl => ⟨ch.loaded_txLen hl, fun _ _ hx => ch.loaded_read hwf hx, fun _ hi => ch.loaded_read_beyond hwf hi,
        hout⟩⟩

/-! ## The round trip -/

/-- At the tags of R98, `ENV.ENCODE` of a body of at most 252 bytes leaves its envelope as the payload to send. -/
theorem envEncode_payload {s : State} {c : ChanId} {ch : Chan} {a : Agent} (hc : s.chans[c]? = some ch)
    (hh : s.holds a c = true) (hw : s.writePending (s.mediumOf c) = false) (hwf : Memory.wf ch.txBuf = true)
    (htags : s.config.tags = [1, 2, 3, 4, 5, 6, 7, 8, 9, 10]) (v : Variant) {body : List Byte}
    (hb : body.length ≤ 252) :
    ∃ t ch', exec (.envEncode a c (tagOf s.config v) body) s = .next t ∧ t.config = s.config ∧
      t.chans[c]? = some ch' ∧ ch'.txPayload = envelope (tagOf s.config v) body := by
  obtain ⟨hv, hkey⟩ := tagOf_default htags v
  have hlen := envelope_length_le hkey hb
  obtain ⟨t, ch', hexec, hc', ⟨ctl, rfl⟩, hcall, -⟩ :=
    envEncode_outcome hc hh hw (encodeFailure_none (by simp [hv]) hlen)
  exact ⟨t, _, hexec, hcall.config, hc', Chan.loaded_txPayload hwf hlen⟩

/-- Settles O6: the payload that `ENV.ENCODE` leaves is the envelope (`envEncode_payload`), both passes read an envelope
back (`envelope_readsBack`), and law L1 gives the value its body decodes to. -/
theorem envelopeRoundTrip : Obligations.EnvelopeRoundTrip := by
  intro s c ch a v hc hh hw hwf htags
  obtain ⟨hv, hkey⟩ := tagOf_default htags v
  have hread {body : List Byte} (hb : body.length ≤ 252) :
      discriminate s.config (envelope (tagOf s.config v) body) = some (v, 1, 2) ∧
      bodyBytes s.config v (envelope (tagOf s.config v) body) = some body := by
    simpa only [varint_length_of_lt hkey] using
      envelope_readsBack hv (Nat.lt_trans hkey (by omega)) (Nat.lt_of_le_of_lt hb (by omega))
  refine ⟨fun body hb => ?_, fun hlaw x hx hb => ?_⟩
  · obtain ⟨t, ch', hexec, -, hc', hp⟩ := envEncode_payload hc hh hw hwf htags v hb
    exact ⟨t, ch', hexec, hc', hp ▸ hread hb⟩
  · obtain ⟨t, ch', hexec, hconfig, hc', hp⟩ := envEncode_payload hc hh hw hwf htags v hb
    obtain ⟨y, hy, hfill⟩ := hlaw v x hx
    refine ⟨t, ch', y, hexec, hc', bodyDecode_ok hy, hfill, exec_envBody_ok ?_⟩
    obtain ⟨-, hbody⟩ := hread hb
    rw [hp, hconfig]
    exact decodeBody_eq_some_iff.mpr ⟨_, hbody, hy⟩

end Sys2Proof.Machine

/-! SUPPORT. Locks and agents (spec/44_registry_broadcast.md R211, spec/20_memory.md R71, R75, R165): where the agents
stand, as functions of an agent and of a channel (`LockView`), and the four moves that change it. -/

namespace Sys2Proof.Machine

/-! ## The view -/

/-- Whether a worker waits for its own pending write (R229). -/
def WorkerCtl.waits : WorkerCtl → Bool
  | .replyWait _ => true
  | _ => false

/-- The session for whose send a broadcast waits (R205). -/
def BcastStage.waitsOn : BcastStage → Option ChanId
  | .wait c => some c
  | _ => none

/-- What R211 speaks of: the locks and the medium selection; the session in whose critical section an agent is, and the
channel on which it waits for a write; and who has called the write pending on a channel. -/
structure LockView where
  lock    : MediumId → Option Lock
  medium  : ChanId → MediumId
  session : Agent → Option ChanId
  waits   : Agent → Option ChanId
  writer  : ChanId → Option Agent

/-- The session in whose critical section an agent of the block is. -/
def State.sessionOf (s : State) : Agent → Option ChanId
  | .driver => none
  | .worker c => s.chans[c]?.bind fun ch => if ch.ctl.holdsLock then some c else none
  | .bcast k => (s.findBcast k).bind fun b => b.stage.lockOf

/-- The channel on which an agent of the block waits for its write. -/
def State.waitsOn (s : State) : Agent → Option ChanId
  | .driver => none
  | .worker c => s.chans[c]?.bind fun ch => if ch.ctl.waits then some c else none
  | .bcast k => (s.findBcast k).bind fun b => b.stage.waitsOn

/-- The caller of the write pending on a channel. -/
def State.writerOf (s : State) (c : ChanId) : Option Agent := s.chans[c]?.bind fun ch => ch.txJob.caller

def State.lockView (s : State) : LockView where
  lock m  := s.locks[m]?
  medium  := s.mediumOf
  session := s.sessionOf
  waits   := s.waitsOn
  writer  := s.writerOf

/-- Locks and agents agree (R71, R75, R165, R211), in terms of the view. -/
structure LockView.Agrees (v : LockView) : Prop where
  held : ∀ a m, a ≠ .driver → (v.lock m = some (.held a) ↔ (v.session a).map v.medium = some m)
  writer : ∀ c a, v.writer c = some a → v.lock (v.medium c) = some (.held a)
  waits : ∀ c a, a ≠ .driver → v.writer c = some a → v.waits a = some c
  alone : ∀ c d, v.writer c ≠ none → v.writer d ≠ none → v.medium c = v.medium d → c = d

/-- A broadcast's number is its own (log entry 14). -/
def State.numbered (s : State) : Prop := (s.bcasts.map (·.id)).Nodup ∧ ∀ b ∈ s.bcasts, b.id < s.nextBc

theorem State.findBcast_iff {s : State} (hn : (s.bcasts.map (·.id)).Nodup) {k : BcastId} {b : Bcast} :
    s.findBcast k = some b ↔ b ∈ s.bcasts ∧ b.id = k := by
  refine ⟨fun h => ⟨List.mem_of_find?_eq_some h, State.findBcast_id h⟩, fun ⟨hm, hk⟩ => ?_⟩
  cases hf : s.findBcast k with
  | none => exact absurd hk (by simpa using List.find?_eq_none.mp hf b hm)
  | some b' =>
    have hid : b'.id = b.id := (State.findBcast_id hf).trans hk.symm
    rw [List.inj_on_of_nodup_map hn (List.mem_of_find?_eq_some hf) hm hid]

@[simp] theorem TxJob.caller_eq_none {j : TxJob} : j.caller = Option.none ↔ j = TxJob.none := by
  cases j <;> simp [TxJob.caller]

theorem WorkerCtl.waits_iff {ctl : WorkerCtl} : ctl.waits = true ↔ ∃ h, ctl = .replyWait h := by
  cases ctl <;> simp [WorkerCtl.waits]

theorem BcastStage.waitsOn_iff {st : BcastStage} {c : ChanId} : st.waitsOn = some c ↔ st = .wait c := by
  cases st <;> simp [BcastStage.waitsOn]

section Places

variable {s : State} {c d : ChanId} {a : Agent}

theorem State.sessionOf_worker : s.sessionOf (.worker c) = some d ↔
    d = c ∧ ∃ ch, s.chans[c]? = some ch ∧ ch.ctl.holdsLock = true := by
  cases hc : s.chans[c]? <;> simp [State.sessionOf, hc, and_comm, @eq_comm _ d]

theorem State.waitsOn_worker : s.waitsOn (.worker c) = some d ↔
    d = c ∧ ∃ ch, s.chans[c]? = some ch ∧ ∃ h, ch.ctl = .replyWait h := by
  cases hc : s.chans[c]? <;> simp [State.waitsOn, hc, WorkerCtl.waits_iff, and_comm, @eq_comm _ d]

theorem State.writerOf_eq_some : s.writerOf c = some a ↔ ∃ ch, s.chans[c]? = some ch ∧ ch.txJob.caller = some a := by
  simp [State.writerOf, Option.bind_eq_some_iff]

theorem State.writerOf_ne_none : s.writerOf c ≠ none ↔ ∃ ch, s.chans[c]? = some ch ∧ ch.txJob ≠ .none := by
  simp [State.writerOf, Option.bind_eq_none_iff]

end Places

/-- The agreement of R211 is the view's, with every broadcast's number its own. -/
theorem State.lockInv_iff (s : State) : s.lockInv ↔ s.lockView.Agrees ∧ s.numbered := by
  constructor
  · intro h
    refine ⟨⟨fun a m ha => ?_, fun c a hw => ?_, fun c a ha hw => ?_, fun c d hc hd => ?_⟩, h.fresh⟩
    · cases a with
      | driver => exact absurd rfl ha
      | worker c =>
        simp only [State.lockView, Option.map_eq_some_iff, State.sessionOf_worker]
        refine ⟨fun hl => ?_, ?_⟩
        · obtain ⟨hm, hch⟩ := h.ofWorker m c hl
          exact ⟨c, ⟨rfl, hch⟩, hm.symm⟩
        · rintro ⟨_, ⟨rfl, ch, hc, hctl⟩, rfl⟩
          exact h.worker _ ch hc hctl
      | bcast k =>
        simp only [State.lockView, State.sessionOf, Option.map_eq_some_iff, Option.bind_eq_some_iff,
          State.findBcast_iff h.fresh.1]
        refine ⟨fun hl => ?_, ?_⟩
        · obtain ⟨b, hb, hk, c, hc, hm⟩ := h.ofBcast m k hl
          exact ⟨c, ⟨b, ⟨hb, hk⟩, hc⟩, hm.symm⟩
        · rintro ⟨c, ⟨b, ⟨hb, rfl⟩, hc⟩, rfl⟩
          exact h.bcast b hb c hc
    · obtain ⟨ch, hc, hj⟩ := State.writerOf_eq_some.mp hw
      exact h.job c ch a hc hj
    · obtain ⟨ch, hc, hj⟩ := State.writerOf_eq_some.mp hw
      cases a with
      | driver => exact absurd rfl ha
      | worker d =>
        obtain ⟨rfl, hwait⟩ := h.jobWorker c ch d hc hj
        exact State.waitsOn_worker.mpr ⟨rfl, ch, hc, hwait⟩
      | bcast k =>
        obtain ⟨b, hb, hk, hstage⟩ := h.jobBcast c ch k hc hj
        have hf := (State.findBcast_iff h.fresh.1).mpr ⟨hb, hk⟩
        simp [State.lockView, State.waitsOn, hf, hstage, BcastStage.waitsOn]
    · obtain ⟨ch, hc, hcj⟩ := State.writerOf_ne_none.mp hc
      obtain ⟨dh, hd, hdj⟩ := State.writerOf_ne_none.mp hd
      exact h.jobs c d ch dh hc hd hcj hdj
  · rintro ⟨h, hfresh⟩
    have hfind {b : Bcast} (hb : b ∈ s.bcasts) : s.findBcast b.id = some b :=
      (State.findBcast_iff hfresh.1).mpr ⟨hb, rfl⟩
    constructor
    case worker =>
      exact fun c ch hc hctl => (h.held (.worker c) _ (by simp)).mpr
        (Option.map_eq_some_iff.mpr ⟨c, State.sessionOf_worker.mpr ⟨rfl, ch, hc, hctl⟩, rfl⟩)
    case bcast =>
      intro b hb c hc
      refine (h.held (.bcast b.id) _ (by simp)).mpr (Option.map_eq_some_iff.mpr ⟨c, ?_, rfl⟩)
      simp [State.lockView, State.sessionOf, hfind hb, hc]
    case ofWorker =>
      intro m c hl
      obtain ⟨d, hd, rfl⟩ := Option.map_eq_some_iff.mp ((h.held (.worker c) m (by simp)).mp hl)
      obtain ⟨rfl, hch⟩ := State.sessionOf_worker.mp hd
      exact ⟨rfl, hch⟩
    case ofBcast =>
      intro m k hl
      obtain ⟨c, hc, rfl⟩ := Option.map_eq_some_iff.mp ((h.held (.bcast k) m (by simp)).mp hl)
      obtain ⟨b, hb, hstage⟩ := Option.bind_eq_some_iff.mp hc
      obtain ⟨hm, hk⟩ := (State.findBcast_iff hfresh.1).mp hb
      exact ⟨b, hm, hk, c, hstage, rfl⟩
    case job => exact fun c ch a hc hj => h.writer c a (State.writerOf_eq_some.mpr ⟨ch, hc, hj⟩)
    case jobWorker =>
      intro c ch d hc hj
      have hw := h.waits c (.worker d) (by simp) (State.writerOf_eq_some.mpr ⟨ch, hc, hj⟩)
      obtain ⟨rfl, dh, hd, hwait⟩ := State.waitsOn_worker.mp hw
      rw [hc, Option.some_inj] at hd
      exact ⟨rfl, hd ▸ hwait⟩
    case jobBcast =>
      intro c ch k hc hj
      have hw := h.waits c (.bcast k) (by simp) (State.writerOf_eq_some.mpr ⟨ch, hc, hj⟩)
      obtain ⟨b, hb, hstage⟩ := Option.bind_eq_some_iff.mp hw
      obtain ⟨hm, hk⟩ := (State.findBcast_iff hfresh.1).mp hb
      exact ⟨b, hm, hk, BcastStage.waitsOn_iff.mp hstage⟩
    case jobs =>
      exact fun c d ch dh hc hd hcj hdj => h.alone c d (State.writerOf_ne_none.mpr ⟨ch, hc, hcj⟩)
        (State.writerOf_ne_none.mpr ⟨dh, hd, hdj⟩)
    case fresh => exact hfresh

/-! ## The moves -/

/-- Agent `a` comes to stand in the critical section of `session`, waiting for a write on `waits`. -/
def LockView.moved (v : LockView) (a : Agent) (session waits : Option ChanId) : LockView :=
  { v with
    session := Function.update v.session a session
    waits   := Function.update v.waits a waits }

/-- Agent `a` has acquired the lock of session `c`. -/
def LockView.acquired (v : LockView) (a : Agent) (c : ChanId) : LockView :=
  { v.moved a (some c) none with lock := Function.update v.lock (v.medium c) (some (.held a)) }

/-- Agent `a` has released the lock of session `c`. -/
def LockView.released (v : LockView) (a : Agent) (c : ChanId) : LockView :=
  { v.moved a none none with lock := Function.update v.lock (v.medium c) (some .free) }

/-- A write that `a` has called is pending on channel `c`. -/
def LockView.called (v : LockView) (a : Agent) (c : ChanId) : LockView :=
  { v.moved a (v.session a) (some c) with writer := Function.update v.writer c (some a) }

/-- The write of `a` on channel `c` has ended. -/
def LockView.ended (v : LockView) (a : Agent) (c : ChanId) : LockView :=
  { v.moved a (v.session a) none with writer := Function.update v.writer c none }

/-- What an operation can do to locks and agents: nothing, or one of the four moves, each from its own place (R75, R165,
R168). -/
inductive LockMoves (v : LockView) : LockView → Prop where
  | same : LockMoves v v
  | acquire {a : Agent} {c : ChanId} (ha : a ≠ .driver) (hn : v.session a = none)
      (hl : v.lock (v.medium c) = some .free) : LockMoves v (v.acquired a c)
  | release {a : Agent} {c : ChanId} (ha : a ≠ .driver) (hs : v.session a = some c)
      (hw : ∀ d, v.medium d = v.medium c → v.writer d = none) : LockMoves v (v.released a c)
  | call {a : Agent} {c : ChanId} (ha : a ≠ .driver) (hl : v.lock (v.medium c) = some (.held a))
      (hw : ∀ d, v.medium d = v.medium c → v.writer d = none) : LockMoves v (v.called a c)
  | ended {a : Agent} {c : ChanId} (hw : v.writer c = some a) : LockMoves v (v.ended a c)

section Moves

variable {v : LockView} (h : v.Agrees) {a : Agent} {c : ChanId}
include h

/-- An agent that is in no critical section takes a free lock (R75). -/
theorem LockView.Agrees.acquired (hn : v.session a = none) (hl : v.lock (v.medium c) = some .free) :
    (v.acquired a c).Agrees := by
  refine ⟨fun a' m ha' => ?_, fun d a' hw => ?_, fun d a' ha' hw => ?_, h.alone⟩
  · have hold := h.held a' m ha'
    by_cases hm : m = v.medium c <;> by_cases haa : a' = a
    · simp [LockView.acquired, LockView.moved, hm, haa]
    · subst hm
      rw [hl] at hold
      simpa [LockView.acquired, LockView.moved, haa, Ne.symm haa] using hold
    · subst haa
      rw [hn] at hold
      simpa [LockView.acquired, LockView.moved, hm, Ne.symm hm] using hold
    · simpa [LockView.acquired, LockView.moved, hm, haa] using hold
  · have hold : v.lock (v.medium d) = some (.held a') := h.writer d a' hw
    have hm : v.medium d ≠ v.medium c := fun e => by simp [e, hl] at hold
    simpa [LockView.acquired, LockView.moved, hm] using hold
  · have haa : a' ≠ a := by
      rintro rfl
      have hheld := (h.held a' _ ha').mp (h.writer d a' hw)
      simp [hn] at hheld
    have hold := h.waits d a' ha' hw
    simpa [LockView.acquired, LockView.moved, haa] using hold

/-- An agent gives back the lock of the critical section it is in, with no write pending (R75, R165). -/
theorem LockView.Agrees.released (ha : a ≠ .driver) (hs : v.session a = some c)
    (hidle : ∀ d, v.medium d = v.medium c → v.writer d = none) : (v.released a c).Agrees := by
  have hl : v.lock (v.medium c) = some (.held a) := (h.held a _ ha).mpr (by simp [hs])
  refine ⟨fun a' m ha' => ?_, fun d a' hw => ?_, fun d a' ha' hw => ?_, h.alone⟩
  · have hold := h.held a' m ha'
    by_cases hm : m = v.medium c <;> by_cases haa : a' = a
    · simp [LockView.released, LockView.moved, hm, haa]
    · subst hm
      rw [hl] at hold
      simpa [LockView.released, LockView.moved, haa, Ne.symm haa] using hold
    · subst haa
      rw [hs] at hold
      simpa [LockView.released, LockView.moved, hm, Ne.symm hm] using hold
    · simpa [LockView.released, LockView.moved, hm, haa] using hold
  · have hm : v.medium d ≠ v.medium c := fun e => nomatch (hidle d e).symm.trans hw
    have hold := h.writer d a' hw
    simpa [LockView.released, LockView.moved, hm] using hold
  · have haa : a' ≠ a := by
      rintro rfl
      have hheld := (h.held a' _ ha').mp (h.writer d a' hw)
      rw [hs, Option.map_some, Option.some_inj] at hheld
      exact nomatch (hidle d hheld.symm).symm.trans hw
    have hold := h.waits d a' ha' hw
    simpa [LockView.released, LockView.moved, haa] using hold

/-- The holder of the lock calls a write on a medium without one (R165). -/
theorem LockView.Agrees.called (ha : a ≠ .driver) (hl : v.lock (v.medium c) = some (.held a))
    (hidle : ∀ d, v.medium d = v.medium c → v.writer d = none) : (v.called a c).Agrees := by
  refine ⟨fun a' m ha' => ?_, fun d a' hw => ?_, fun d a' ha' hw => ?_, fun d e hd he hm => ?_⟩
  · have hold := h.held a' m ha'
    by_cases haa : a' = a
    · subst haa
      simpa [LockView.called, LockView.moved] using hold
    · simpa [LockView.called, LockView.moved, haa] using hold
  · by_cases hdc : d = c
    · subst hdc
      obtain rfl : a = a' := by simpa [LockView.called] using hw
      exact hl
    · exact h.writer d a' (by simpa [LockView.called, hdc] using hw)
  · by_cases hdc : d = c
    · subst hdc
      obtain rfl : a = a' := by simpa [LockView.called] using hw
      simp [LockView.called, LockView.moved]
    · have hw' : v.writer d = some a' := by simpa [LockView.called, hdc] using hw
      have haa : a' ≠ a := by
        rintro rfl
        have hsess := (h.held a' _ ha').mp hl
        rw [(h.held a' _ ha').mp (h.writer d a' hw'), Option.some_inj] at hsess
        exact nomatch (hidle d hsess).symm.trans hw'
      simpa [LockView.called, LockView.moved, haa] using h.waits d a' ha' hw'
  · have hidle' {x : ChanId} (hx : (v.called a c).writer x ≠ none) (e : v.medium x = v.medium c) : x = c := by
      by_contra hxc
      exact hx (by simpa [LockView.called, hxc] using hidle x e)
    by_cases hdc : v.medium d = v.medium c
    · exact (hidle' hd hdc).trans (hidle' he (hm.symm.trans hdc)).symm
    · have hne {x : ChanId} (hx : v.medium x ≠ v.medium c) : x ≠ c := fun e => hx (by rw [e])
      have hec : v.medium e ≠ v.medium c := fun e' => hdc (Eq.trans hm e')
      exact h.alone d e (by simpa [LockView.called, hne hdc] using hd) (by simpa [LockView.called, hne hec] using he) hm

/-- A pending write ends (R161, R164). -/
theorem LockView.Agrees.ended (hw : v.writer c = some a) : (v.ended a c).Agrees := by
  have hother {d : ChanId} {x : Agent} (hd : (v.ended a c).writer d = some x) : d ≠ c ∧ v.writer d = some x := by
    have hdc : d ≠ c := by
      rintro rfl
      simp [LockView.ended] at hd
    exact ⟨hdc, by simpa [LockView.ended, hdc] using hd⟩
  refine ⟨fun a' m ha' => ?_, fun d a' hd => ?_, fun d a' ha' hd => ?_, fun d e hd he hm => ?_⟩
  · have hold := h.held a' m ha'
    by_cases haa : a' = a
    · subst haa
      simpa [LockView.ended, LockView.moved] using hold
    · simpa [LockView.ended, LockView.moved, haa] using hold
  · exact h.writer d a' (hother hd).2
  · obtain ⟨hdc, hd'⟩ := hother hd
    have hold := h.waits d a' ha' hd'
    have haa : a' ≠ a := by
      rintro rfl
      exact hdc (Option.some_inj.mp (hold.symm.trans (h.waits c a' ha' hw)))
    simpa [LockView.ended, LockView.moved, haa] using hold
  · obtain ⟨x, hx⟩ := Option.ne_none_iff_exists'.mp hd
    obtain ⟨y, hy⟩ := Option.ne_none_iff_exists'.mp he
    exact h.alone d e (by simp [(hother hx).2]) (by simp [(hother hy).2]) hm

end Moves

/-- Every move keeps the agreement. -/
theorem LockMoves.agrees {v w : LockView} (hm : LockMoves v w) (h : v.Agrees) : w.Agrees := by
  cases hm with
  | same => exact h
  | acquire ha hn hl => exact h.acquired hn hl
  | release ha hs hw => exact h.released ha hs hw
  | call ha hl hw => exact h.called ha hl hw
  | ended hw => exact h.ended hw

/-- The driver holds no lock and waits for no write (R286). -/
structure LockView.DriverOut (v : LockView) : Prop where
  lock : ∀ m, v.lock m ≠ some (.held .driver)
  writer : ∀ c, v.writer c ≠ some .driver

/-- No move brings the driver in. -/
theorem LockMoves.driverOut {v w : LockView} (hm : LockMoves v w) (h : v.DriverOut) : w.DriverOut := by
  obtain ⟨hl, hw⟩ := h
  cases hm with
  | same => exact ⟨hl, hw⟩
  | @acquire a c ha =>
    refine ⟨fun m => ?_, hw⟩
    by_cases hm : m = v.medium c <;> simp [LockView.acquired, hm, ha, hl]
  | @release a c =>
    refine ⟨fun m => ?_, hw⟩
    by_cases hm : m = v.medium c <;> simp [LockView.released, hm, hl]
  | @call a c ha =>
    refine ⟨hl, fun d => ?_⟩
    by_cases hd : d = c <;> simp [LockView.called, hd, ha, hw]
  | @ended a c =>
    refine ⟨hl, fun d => ?_⟩
    by_cases hd : d = c <;> simp [LockView.ended, hd, hw]

end Sys2Proof.Machine

/-! SUPPORT. What the updates of the state and a caller that carries on do to locks and agents (`LockView`) and to the
contexts of the broadcasts. -/

namespace Sys2Proof.Machine

/-! ## The view of an updated state -/

/-- What the view says of a channel. -/
def Chan.lockPlace (ch : Chan) : Bool × Bool × Option Agent := (ch.ctl.holdsLock, ch.ctl.waits, ch.txJob.caller)

theorem State.lockView_ext {s t : State} (hl : t.locks = s.locks) (hm : t.medium = s.medium)
    (hs : ∀ a, t.sessionOf a = s.sessionOf a) (hw : ∀ a, t.waitsOn a = s.waitsOn a)
    (hj : ∀ c, t.writerOf c = s.writerOf c) : t.lockView = s.lockView := by
  have hmed : t.mediumOf = s.mediumOf := funext fun c => by rw [State.mediumOf, hm, State.mediumOf]
  unfold State.lockView
  rw [hl, hmed, funext hs, funext hw, funext hj]

/-- The view looks at a channel's `lockPlace` alone. -/
theorem State.lockView_of_chans {s t : State} (hc : t.chans.map Chan.lockPlace = s.chans.map Chan.lockPlace)
    (hl : t.locks = s.locks := by rfl) (hm : t.medium = s.medium := by rfl) (hb : t.bcasts = s.bcasts := by rfl) :
    t.lockView = s.lockView := by
  have hplace (c : ChanId) : (t.chans[c]?).map Chan.lockPlace = (s.chans[c]?).map Chan.lockPlace := by
    rw [← List.getElem?_map, hc, List.getElem?_map]
  have hview {α : Type} (g : Bool × Bool × Option Agent → Option α) (c : ChanId) :
      t.chans[c]?.bind (fun ch => g ch.lockPlace) = s.chans[c]?.bind fun ch => g ch.lockPlace := by
    have h := congrArg (fun o => Option.bind o g) (hplace c)
    simpa only [Option.bind_map, Function.comp_def] using h
  refine State.lockView_ext hl hm (fun a => ?_) (fun a => ?_) fun c => hview (fun p => p.2.2) c
  · cases a with
    | driver => rfl
    | worker c => exact hview (fun p => if p.1 then some c else none) c
    | bcast k => rw [State.sessionOf, State.findBcast, hb]; rfl
  · cases a with
    | driver => rfl
    | worker c => exact hview (fun p => if p.2.1 then some c else none) c
    | bcast k => rw [State.waitsOn, State.findBcast, hb]; rfl

theorem LockView.moved_self (v : LockView) (a : Agent) : v.moved a (v.session a) (v.waits a) = v := by
  simp [LockView.moved]

/-- A channel is written: its worker may stand elsewhere, and the write pending on it may be another. -/
theorem State.lockView_setChan {s : State} {c : ChanId} {ch : Chan} (hc : s.chans[c]? = some ch) (ch' : Chan) :
    (s.setChan c ch').lockView =
      { s.lockView.moved (.worker c) (if ch'.ctl.holdsLock then some c else none)
          (if ch'.ctl.waits then some c else none) with
        writer := Function.update s.writerOf c ch'.txJob.caller } := by
  have hget (d : ChanId) : (s.setChan c ch').chans[d]? = if d = c then some ch' else s.chans[d]? := by
    split
    · rename_i h
      rw [h]
      exact State.setChan_get_self hc ch'
    · exact State.setChan_get_ne s ‹_› ch'
  have hsession : (s.setChan c ch').sessionOf =
      Function.update s.sessionOf (.worker c) (if ch'.ctl.holdsLock then some c else none) := by
    funext a
    cases a with
    | driver => simp [State.sessionOf]
    | worker d => by_cases h : d = c <;> simp [State.sessionOf, hget, h, -State.setChan_chans]
    | bcast k => rfl
  have hwaits : (s.setChan c ch').waitsOn =
      Function.update s.waitsOn (.worker c) (if ch'.ctl.waits then some c else none) := by
    funext a
    cases a with
    | driver => simp [State.waitsOn]
    | worker d => by_cases h : d = c <;> simp [State.waitsOn, hget, h, -State.setChan_chans]
    | bcast k => rfl
  have hwriter : (s.setChan c ch').writerOf = Function.update s.writerOf c ch'.txJob.caller := by
    funext d
    by_cases h : d = c <;> simp [State.writerOf, hget, h, -State.setChan_chans]
  rw [State.lockView, hsession, hwaits, hwriter]
  rfl

/-- A broadcast's context is written. -/
theorem State.lockView_updBcast {s : State} {k : BcastId} {b : Bcast} (hb : s.findBcast k = some b) {f : Bcast → Bcast}
    (hf : ∀ b, (f b).id = b.id := by intro; rfl) :
    (s.updBcast k f).lockView = s.lockView.moved (.bcast k) (f b).stage.lockOf (f b).stage.waitsOn := by
  have hsession : (s.updBcast k f).sessionOf = Function.update s.sessionOf (.bcast k) (f b).stage.lockOf := by
    funext a
    cases a with
    | driver => rfl
    | worker c => rfl
    | bcast j => by_cases h : j = k <;> simp [State.sessionOf, State.findBcast_updBcast _ _ _ hf, h, hb]
  have hwaits : (s.updBcast k f).waitsOn = Function.update s.waitsOn (.bcast k) (f b).stage.waitsOn := by
    funext a
    cases a with
    | driver => rfl
    | worker c => rfl
    | bcast j => by_cases h : j = k <;> simp [State.waitsOn, State.findBcast_updBcast _ _ _ hf, h, hb]
  rw [State.lockView, hsession, hwaits]
  rfl

/-- The return of a broadcast moves its caller from one place outside the critical sections to another. -/
theorem State.bcastReturn_lockPlace (s : State) (b : Bcast) (r : Result) :
    (s.bcastReturn b r).chans.map Chan.lockPlace = s.chans.map Chan.lockPlace := by
  unfold State.bcastReturn
  cases b.caller with
  | driver => rfl
  | handler c =>
    refine State.updChan_map _ c fun ch => ?_
    split
    · rename_i hctl
      split <;> simp [Chan.lockPlace, hctl, WorkerCtl.holdsLock, WorkerCtl.waits]
    · rfl
  | stop c =>
    refine State.updChan_map _ c fun ch => ?_
    split
    · rename_i hctl
      split <;> simp [Chan.lockPlace, hctl, WorkerCtl.holdsLock, WorkerCtl.waits]
    · rfl

/-- A broadcast that has returned stands nowhere. -/
theorem State.lockView_bcastReturn (s : State) (b : Bcast) (r : Result) :
    (s.bcastReturn b r).lockView = s.lockView.moved (.bcast b.id) none none := by
  have hchans : { s.bcastReturn b r with bcasts := s.bcasts }.lockView = s.lockView := by
    obtain ⟨chans, e⟩ := s.bcastReturn_eq b r
    refine State.lockView_of_chans (s.bcastReturn_lockPlace b r) ?_ ?_ <;> rw [e]
  have hsession : (s.bcastReturn b r).sessionOf = Function.update s.sessionOf (.bcast b.id) none := by
    funext a
    cases a with
    | driver => rfl
    | worker c => exact congrFun (congrArg LockView.session hchans) (.worker c)
    | bcast j => by_cases h : j = b.id <;> simp [State.sessionOf, State.findBcast_bcastReturn, h]
  have hwaits : (s.bcastReturn b r).waitsOn = Function.update s.waitsOn (.bcast b.id) none := by
    funext a
    cases a with
    | driver => rfl
    | worker c => exact congrFun (congrArg LockView.waits hchans) (.worker c)
    | bcast j => by_cases h : j = b.id <;> simp [State.waitsOn, State.findBcast_bcastReturn, h]
  rw [State.lockView, hsession, hwaits]
  exact congrArg (fun v => LockView.mk v.lock v.medium (Function.update s.sessionOf (.bcast b.id) none)
    (Function.update s.waitsOn (.bcast b.id) none) v.writer) hchans

/-! ## The view of a caller that carries on -/

/-- What moves a caller into, inside or out of a critical section (R75, R165). -/
def Return.moves : Return → Bool
  | .acquired => true
  | .released => true
  | .accepted => true
  | .result .txOk => true
  | .result .txFail => true
  | _ => false

theorem Chan.lockPlace_resume (ch : Chan) {r : Return} (hr : r.moves = false) :
    (ch.resume r).lockPlace = ch.lockPlace := by
  unfold Chan.resume
  split
  case h_15 => rfl
  all_goals simp_all [Chan.lockPlace, WorkerCtl.holdsLock, WorkerCtl.waits, Return.moves]

/-- A context is written without its agent moving. -/
theorem State.lockView_updBcast_same {s : State} {k : BcastId} {b : Bcast} (hb : s.findBcast k = some b)
    {f : Bcast → Bcast} (hl : (f b).stage.lockOf = b.stage.lockOf)
    (hw : (f b).stage.waitsOn = b.stage.waitsOn) (hf : ∀ b, (f b).id = b.id := by intro; rfl) :
    (s.updBcast k f).lockView = s.lockView := by
  have hsession : b.stage.lockOf = s.lockView.session (.bcast k) := by simp [State.lockView, State.sessionOf, hb]
  have hwaits : b.stage.waitsOn = s.lockView.waits (.bcast k) := by simp [State.lockView, State.waitsOn, hb]
  rw [State.lockView_updBcast hb hf, hl, hw, hsession, hwaits, LockView.moved_self]

theorem State.lockView_stage {s : State} {k : BcastId} {b : Bcast} (hb : s.findBcast k = some b) (st : BcastStage) :
    (s.updBcast k fun b => { b with stage := st }).lockView = s.lockView.moved (.bcast k) st.lockOf st.waitsOn :=
  State.lockView_updBcast hb

/-- A worker carries on: it may stand elsewhere. -/
theorem State.lockView_resume_worker {s : State} {c : ChanId} {ch : Chan} (hc : s.chans[c]? = some ch) (r : Return) :
    (s.resume (.worker c) r).lockView =
      s.lockView.moved (.worker c) (if (ch.resume r).ctl.holdsLock then some c else none)
        (if (ch.resume r).ctl.waits then some c else none) := by
  have hwriter : Function.update s.writerOf c (ch.resume r).txJob.caller = s.writerOf := by
    rw [Chan.resume_txJob, Function.update_eq_self_iff, State.writerOf, hc]
    rfl
  have hset : (s.resume (.worker c) r).lockView = (s.setChan c (ch.resume r)).lockView := by
    rw [State.resume_worker hc]
    rfl
  rw [hset, State.lockView_setChan hc, hwriter]
  rfl

/-- Only five of the things a called operation hands back move the caller. -/
theorem State.lockView_resume_same (s : State) (a : Agent) {r : Return} (hr : r.moves = false) :
    (s.resume a r).lockView = s.lockView := by
  cases a with
  | driver => rfl
  | worker c =>
    cases hc : s.chans[c]? with
    | none => rw [State.resume_worker_none hc]
    | some ch =>
      rw [State.resume_worker hc]
      exact State.lockView_of_chans (State.setChan_map hc (ch.lockPlace_resume hr))
  | bcast k =>
    cases hb : s.findBcast k with
    | none => rw [State.resume_bcast_none hb]
    | some b =>
      obtain rfl := State.findBcast_id hb
      rw [State.resume_bcast hb]
      unfold State.resumeBcast
      split
      case h_2 hst =>
        exact State.lockView_updBcast_same hb (by rw [hst]; rfl) (by rw [hst]; rfl)
      case h_3 hst =>
        exact State.lockView_updBcast_same hb (by rw [hst]; rfl) (by rw [hst]; rfl)
      case h_10 => rfl
      all_goals cases hr

/-- A worker that takes the result of a send waits for it no longer, and is in its critical section as before. -/
theorem Chan.resume_sent (ch : Chan) {r : Result} (hr : r = .txOk ∨ r = .txFail) :
    (ch.resume (.result r)).ctl.holdsLock = ch.ctl.holdsLock ∧ (ch.resume (.result r)).ctl.waits = false := by
  rcases hr with rfl | rfl <;> cases hctl : ch.ctl <;>
    simp [Chan.resume, hctl, WorkerCtl.holdsLock, WorkerCtl.waits]

/-- A caller that takes the result of a send waits for it no longer, and is in its critical section as before. -/
theorem State.lockView_resume_sent (s : State) (a : Agent) {r : Result} (hr : r = .txOk ∨ r = .txFail) :
    (s.resume a (.result r)).lockView = s.lockView.moved a (s.sessionOf a) none := by
  have stays (hw : s.waitsOn a = none) : s.lockView = s.lockView.moved a (s.sessionOf a) none := by
    rw [← hw]
    exact (s.lockView.moved_self a).symm
  cases a with
  | driver => exact stays rfl
  | worker c =>
    cases hc : s.chans[c]? with
    | none =>
      rw [State.resume_worker_none hc]
      exact stays (by simp [State.waitsOn, hc])
    | some ch =>
      obtain ⟨hholds, hwaits⟩ := ch.resume_sent hr
      rw [State.lockView_resume_worker hc, hholds, hwaits]
      simp [State.sessionOf, hc]
  | bcast k =>
    cases hb : s.findBcast k with
    | none =>
      rw [State.resume_bcast_none hb]
      exact stays (by simp [State.waitsOn, hb])
    | some b =>
      obtain rfl := State.findBcast_id hb
      rw [State.resume_bcast hb]
      cases hst : b.stage with
      | wait c =>
        have hrel : s.resumeBcast b (.result r) = s.updBcast b.id fun b => { b with stage := .rel c (.sent r) } := by
          rcases hr with rfl | rfl <;> simp [State.resumeBcast, hst]
        rw [hrel, State.lockView_stage hb]
        simp [State.sessionOf, hb, hst, BcastStage.lockOf, BcastStage.waitsOn]
      | _ =>
        rcases hr with rfl | rfl <;> simp only [State.resumeBcast, hst] <;>
          exact stays (by simp [State.waitsOn, hb, hst, BcastStage.waitsOn])

theorem State.lockView_ret_same (s : State) (a : Agent) {r : Result} (hr : (Return.result r).moves = false) :
    (s.ret a r).lockView = s.lockView :=
  (s.output (.result a r)).lockView_resume_same a hr

theorem State.lockView_ret_sent (s : State) (a : Agent) {r : Result} (hr : r = .txOk ∨ r = .txFail) :
    (s.ret a r).lockView = s.lockView.moved a (s.lockView.session a) none :=
  (s.output (.result a r)).lockView_resume_sent a hr

/-! ## The contexts of the broadcasts -/

/-- Whose a context is. -/
def Bcast.owner (b : Bcast) : BcastId × BcastCaller := (b.id, b.caller)

/-- No context is new, and those that are left keep their numbers, their callers and their frames. -/
structure ContextsKept (s t : State) : Prop where
  owners : (t.bcasts.map Bcast.owner).Sublist (s.bcasts.map Bcast.owner)
  nextBc : t.nextBc = s.nextBc
  frames : ∀ k b', t.findBcast k = some b' → ∃ b, s.findBcast k = some b ∧ b'.frame = b.frame

theorem ContextsKept.of_eq {s t : State} (hb : t.bcasts = s.bcasts) (hn : t.nextBc = s.nextBc) : ContextsKept s t := by
  refine ⟨by rw [hb], hn, fun k b' h => ⟨b', ?_, rfl⟩⟩
  rwa [State.findBcast, hb] at h

theorem contextsKept_setLock (s : State) (m : MediumId) (l : Lock) : ContextsKept s (s.setLock m l) := .of_eq rfl rfl

theorem contextsKept_setChan (s : State) (c : ChanId) (ch : Chan) : ContextsKept s (s.setChan c ch) := .of_eq rfl rfl

theorem ContextsKept.refl (s : State) : ContextsKept s s := .of_eq rfl rfl

theorem ContextsKept.trans {s t u : State} (h : ContextsKept s t) (k : ContextsKept t u) : ContextsKept s u where
  owners := k.owners.trans h.owners
  nextBc := k.nextBc.trans h.nextBc
  frames j b' hj := by
    obtain ⟨b, hb, hf⟩ := k.frames j b' hj
    obtain ⟨b0, hb0, hf0⟩ := h.frames j b hb
    exact ⟨b0, hb0, hf.trans hf0⟩

theorem owners_updBcast (s : State) (k : BcastId) {f : Bcast → Bcast}
    (ho : ∀ b, (f b).owner = b.owner := by intro; rfl) :
    (s.updBcast k f).bcasts.map Bcast.owner = s.bcasts.map Bcast.owner := by
  rw [State.updBcast_bcasts, List.map_map]
  refine List.map_congr_left fun b _ => ?_
  simp only [Function.comp]
  split
  · exact ho b
  · rfl

theorem contextsKept_updBcast (s : State) (k : BcastId) {f : Bcast → Bcast} (ho : ∀ b, (f b).owner = b.owner)
    (hf : ∀ b, (f b).frame = b.frame) : ContextsKept s (s.updBcast k f) := by
  refine ⟨by rw [owners_updBcast s k ho], rfl, fun j b' h => ?_⟩
  rw [State.findBcast_updBcast s k j fun b => (congrArg Prod.fst (ho b) :)] at h
  split at h
  · rename_i hj
    obtain ⟨b, hb, rfl⟩ := Option.map_eq_some_iff.mp h
    exact ⟨b, hj ▸ hb, hf b⟩
  · exact ⟨b', h, rfl⟩

theorem contextsKept_bcastReturn (s : State) (b : Bcast) (r : Result) : ContextsKept s (s.bcastReturn b r) := by
  refine ⟨?_, ?_, fun j b' h => ?_⟩
  · obtain ⟨chans, e⟩ := s.bcastReturn_eq b r
    rw [e]
    exact List.filter_sublist.map _
  · obtain ⟨chans, e⟩ := s.bcastReturn_eq b r
    rw [e]
  · rw [State.findBcast_bcastReturn] at h
    split at h
    · cases h
    · exact ⟨b', h, rfl⟩

/-- A caller that carries on keeps the frames, whatever it is handed but an encoded payload (R205). -/
theorem contextsKept_resume (s : State) (a : Agent) {r : Return} (hr : r ≠ .result .encOk) :
    ContextsKept s (s.resume a r) := by
  cases a with
  | driver => exact .refl s
  | worker c => exact .of_eq (State.resume_bcasts (by simp) r) (State.resume_nextBc ..)
  | bcast k =>
    cases hb : s.findBcast k with
    | none =>
      rw [State.resume_bcast_none hb]
      exact .refl s
    | some b =>
      rw [State.resume_bcast hb]
      unfold State.resumeBcast
      split
      case h_2 => exact absurd rfl hr
      case h_9 => exact contextsKept_bcastReturn s b _
      case h_10 => exact .refl s
      all_goals exact contextsKept_updBcast s _ (fun _ => rfl) fun _ => rfl

theorem contextsKept_ret (s : State) (a : Agent) {r : Result} (hr : r ≠ .encOk) : ContextsKept s (s.ret a r) :=
  ContextsKept.trans (t := s.output (.result a r)) (.of_eq rfl rfl)
    (contextsKept_resume _ a fun e => hr (Return.result.inj e))

/-- What an operation that a step runs can do to the contexts: keep them, but for the frame of a broadcast at its encode;
or add one, for a caller of the block (R203, R286). -/
inductive Contexts (s t : State) : Prop where
  | kept (owners : (t.bcasts.map Bcast.owner).Sublist (s.bcasts.map Bcast.owner)) (nextBc : t.nextBc = s.nextBc)
      (frames : ∀ k b', t.findBcast k = some b' →
        ∃ b, s.findBcast k = some b ∧ ((∀ c, b.stage ≠ .encode c) → b'.frame = b.frame))
  | called {b : Bcast} (hid : b.id = s.nextBc) (hcaller : b.caller ≠ .driver) (bcasts : t.bcasts = s.bcasts ++ [b])
      (nextBc : t.nextBc = s.nextBc + 1)

theorem ContextsKept.contexts {s t : State} (h : ContextsKept s t) : Contexts s t := by
  refine .kept h.owners h.nextBc fun k b' hb' => ?_
  obtain ⟨b, hb, hf⟩ := h.frames k b' hb'
  exact ⟨b, hb, fun _ => hf⟩

theorem Contexts.congr {s t u : State} (h : Contexts t u) (hb : t.bcasts = s.bcasts := by rfl)
    (hn : t.nextBc = s.nextBc := by rfl) : Contexts s u := by
  have hfind (k : BcastId) : t.findBcast k = s.findBcast k := by rw [State.findBcast, hb, State.findBcast]
  cases h with
  | kept owners nextBc frames =>
    refine .kept (hb ▸ owners) (nextBc.trans hn) fun k b' hb' => ?_
    rw [← hfind]
    exact frames k b' hb'
  | called hid hcaller bcasts nextBc =>
    exact .called (hid.trans hn) hcaller (hb ▸ bcasts) (hn ▸ nextBc)

/-- The numbers of the contexts stay their own. -/
theorem Contexts.numbered {s t : State} (h : Contexts s t) (hs : s.numbered) : t.numbered := by
  obtain ⟨hnodup, hlt⟩ := hs
  cases h with
  | kept owners nextBc frames =>
    have hsub : (t.bcasts.map (·.id)).Sublist (s.bcasts.map (·.id)) := by
      simpa [Function.comp_def, Bcast.owner] using owners.map Prod.fst
    refine ⟨hsub.nodup hnodup, fun b hb => ?_⟩
    obtain ⟨b0, hb0, hid⟩ := List.mem_map.mp (hsub.subset (List.mem_map_of_mem hb))
    rw [nextBc, ← show b0.id = b.id from hid]
    exact hlt b0 hb0
  | @called b hid hcaller bcasts nextBc =>
    rw [State.numbered, bcasts, nextBc]
    refine ⟨?_, fun b' hb' => ?_⟩
    · have hnew : b.id ∉ s.bcasts.map (·.id) := fun hm => by
        obtain ⟨b0, hb0, e⟩ := List.mem_map.mp hm
        exact (hlt b0 hb0).ne (e.trans hid)
      simpa [List.nodup_append] using ⟨hnodup, by simpa using hnew⟩
    · rcases List.mem_append.mp hb' with hm | hm
      · exact Nat.lt_succ_of_lt (hlt b' hm)
      · rw [List.mem_singleton.mp hm, hid]
        exact Nat.lt_succ_self _

/-- No context comes to be the driver's. -/
theorem Contexts.callers {s t : State} (h : Contexts s t) (hs : ∀ b ∈ s.bcasts, b.caller ≠ .driver) :
    ∀ b ∈ t.bcasts, b.caller ≠ .driver := by
  intro b hb
  cases h with
  | kept owners nextBc frames =>
    obtain ⟨b0, hb0, e⟩ := List.mem_map.mp (owners.subset (List.mem_map_of_mem hb))
    rw [← show b0.caller = b.caller from congrArg Prod.snd e]
    exact hs b0 hb0
  | called hid hcaller bcasts nextBc =>
    rw [bcasts] at hb
    rcases List.mem_append.mp hb with hm | hm
    · exact hs b hm
    · rw [List.mem_singleton.mp hm]
      exact hcaller

/-- A context that is still there has its frame, outside its encode (R205). -/
theorem Contexts.frame {s t : State} (h : Contexts s t) {k : BcastId} {b b' : Bcast} (hb : s.findBcast k = some b)
    (hst : ∀ c, b.stage ≠ .encode c) (hb' : t.findBcast k = some b') : b'.frame = b.frame := by
  cases h with
  | kept owners nextBc frames =>
    obtain ⟨b0, hb0, hf⟩ := frames k b' hb'
    obtain rfl : b = b0 := Option.some_inj.mp (hb.symm.trans hb0)
    exact hf hst
  | called hid hcaller bcasts nextBc =>
    have hsame : t.findBcast k = some b := by
      rw [State.findBcast, bcasts, List.find?_append, show s.bcasts.find? _ = some b from hb]
      rfl
    rw [Option.some_inj.mp (hsame.symm.trans hb')]

end Sys2Proof.Machine

/-! SUPPORT. Every operation that a step runs moves at most one agent (`LockMoves`), and what it does to the contexts of
the broadcasts (`Contexts`). -/

namespace Sys2Proof.Machine

/-! ## Operations that move nobody -/

/-- No agent moves, and the contexts keep their owners and their frames. -/
structure Unmoved (s t : State) : Prop where
  view : t.lockView = s.lockView
  contexts : ContextsKept s t

/-- At most one agent moves; the contexts are kept, or one is added. -/
structure LockStep (s t : State) : Prop where
  moves : LockMoves s.lockView t.lockView
  contexts : Contexts s t

theorem Unmoved.lockStep {s t : State} (h : Unmoved s t) : LockStep s t :=
  ⟨by rw [h.view]; exact .same, h.contexts.contexts⟩

theorem Unmoved.refl (s : State) : Unmoved s s := ⟨rfl, .refl s⟩

theorem Unmoved.trans {s t u : State} (h : Unmoved s t) (k : Unmoved t u) : Unmoved s u :=
  ⟨k.view.trans h.view, h.contexts.trans k.contexts⟩

theorem Unmoved.output {s t : State} (h : Unmoved s t) (o : Output) : Unmoved s (t.output o) :=
  h.trans ⟨rfl, .of_eq rfl rfl⟩

theorem Unmoved.signal {s t : State} (h : Unmoved s t) (l : Level) : Unmoved s (t.signal l) := h.output _

theorem Unmoved.setReg {s t : State} (h : Unmoved s t) (i : SlotId) (r : Option ChanId) : Unmoved s (t.setReg i r) :=
  h.trans ⟨rfl, .of_eq rfl rfl⟩

/-- Registers of a channel other than its worker's place and the write pending on it. -/
theorem Unmoved.setChan {s t : State} (h : Unmoved s t) {c : ChanId} {ch ch' : Chan} (hc : t.chans[c]? = some ch)
    (hp : ch'.lockPlace = ch.lockPlace := by rfl) : Unmoved s (t.setChan c ch') :=
  h.trans ⟨State.lockView_of_chans (State.setChan_map hc hp), .of_eq rfl rfl⟩

theorem Unmoved.updChan {s t : State} (h : Unmoved s t) (c : ChanId) {f : Chan → Chan}
    (hf : ∀ ch, (f ch).lockPlace = ch.lockPlace := by intro; rfl) : Unmoved s (t.updChan c f) := by
  cases hc : t.chans[c]? with
  | none =>
    rw [State.updChan_none hc]
    exact h
  | some ch =>
    rw [State.updChan_some hc]
    exact h.setChan hc (hf ch)

/-- A worker waits for a write inside its critical section only. -/
theorem WorkerCtl.waits_of_outside {ctl : WorkerCtl} (h : ctl.holdsLock = false) : ctl.waits = false := by
  cases ctl with
  | replyWait _ => cases h
  | _ => rfl

theorem Chan.lockPlace_outside {ch ch' : Chan} (h : ch.ctl.holdsLock = false) (h' : ch'.ctl.holdsLock = false)
    (hj : ch'.txJob = ch.txJob) : ch'.lockPlace = ch.lockPlace := by
  simp [Chan.lockPlace, h, h', hj, WorkerCtl.waits_of_outside]

theorem State.sessionOf_outside {s : State} {c : ChanId} {ch : Chan} (hc : s.chans[c]? = some ch) :
    s.sessionOf (.worker c) = none ↔ ch.ctl.holdsLock = false := by
  simp [State.sessionOf, hc]

/-- A worker moves from one place outside its critical section to another. -/
theorem Unmoved.outside {s t : State} (h : Unmoved s t) {c : ChanId} (hout : s.sessionOf (.worker c) = none)
    {f : Chan → Chan} (hf : ∀ ch, (f ch).ctl.holdsLock = false := by intro; rfl)
    (hj : ∀ ch, (f ch).txJob = ch.txJob := by intro; rfl) : Unmoved s (t.updChan c f) := by
  cases hc : t.chans[c]? with
  | none =>
    rw [State.updChan_none hc]
    exact h
  | some ch =>
    have hsession : t.sessionOf (.worker c) = s.sessionOf (.worker c) :=
      congrFun (congrArg LockView.session h.view) (.worker c)
    rw [State.updChan_some hc]
    exact h.setChan hc (Chan.lockPlace_outside ((State.sessionOf_outside hc).mp (hsession.trans hout)) (hf ch) (hj ch))

theorem unmoved_outside {s : State} {c : ChanId} {ch ch' : Chan} (hc : s.chans[c]? = some ch)
    (h : ch.ctl.holdsLock = false) (h' : ch'.ctl.holdsLock = false := by rfl) (hj : ch'.txJob = ch.txJob := by rfl) :
    Unmoved s (s.setChan c ch') :=
  (Unmoved.refl s).setChan hc (Chan.lockPlace_outside h h' hj)

theorem Unmoved.resume {s t : State} (h : Unmoved s t) (a : Agent) {r : Return} (hr : r.moves = false)
    (he : r ≠ .result .encOk) : Unmoved s (t.resume a r) :=
  h.trans ⟨t.lockView_resume_same a hr, contextsKept_resume t a he⟩

theorem Unmoved.ret {s t : State} (h : Unmoved s t) (a : Agent) {r : Result} (hr : (Return.result r).moves = false := by rfl)
    (he : r ≠ .encOk := by simp [Failure.result]) : Unmoved s (t.ret a r) :=
  h.trans ⟨t.lockView_ret_same a hr, contextsKept_ret t a he⟩

theorem Unmoved.raise {s t : State} (h : Unmoved s t) {f : Failure} (hf : ∀ c a, f ≠ .txFail c a := by simp) :
    Unmoved s (t.raise f) := by
  cases f with
  | rxFail c cause => exact Unmoved.ret ((h.signal .fail).updChan c) _
  | txFail c a => exact absurd rfl (hf c a)
  | encFail a cause => exact Unmoved.ret (h.signal .fail) _
  | bodyFail a => exact Unmoved.ret (h.signal .fail) _
  | startFail c => exact Unmoved.ret h _

/-! ## What an operation answers -/

/-- A step of locks and agents from `s`, if an answer is a next state. -/
inductive LockAfter (s : State) : Answer → Prop where
  | fault (f : Fault) : LockAfter s (.fault f)
  | refused (r : Refusal) : LockAfter s (.refused r)
  | next {t : State} (h : LockStep s t) : LockAfter s (.next t)

theorem LockAfter.unmoved {s t : State} (h : Unmoved s t) : LockAfter s (.next t) := .next h.lockStep

theorem LockAfter.self (s : State) : LockAfter s (.next s) := .unmoved (.refl s)

theorem LockAfter.at {s : State} {c : ChanId} {ch : Chan} (hc : s.chans[c]? = some ch) {f : Chan → Answer}
    (h : LockAfter s (f ch)) : LockAfter s (s.onChan c f) := by
  rwa [State.onChan_some hc]

theorem LockAfter.onChan {s : State} {c : ChanId} {f : Chan → Answer}
    (h : ∀ ch, s.chans[c]? = some ch → LockAfter s (f ch)) : LockAfter s (s.onChan c f) := by
  unfold State.onChan
  split
  · exact h _ ‹_›
  · exact .fault _

/-- Agent `a` may use the transport of channel `c` for sending (R71, R165, R168). -/
structure MaySend (s : State) (a : Agent) (c : ChanId) : Prop where
  held : s.lockView.lock (s.lockView.medium c) = some (.held a)
  idle : ∀ d, s.lockView.medium d = s.lockView.medium c → s.lockView.writer d = none

theorem State.writerOf_idle {s : State} {m : MediumId} (hw : s.writePending m = false) {d : ChanId}
    (hd : s.mediumOf d = m) : s.writerOf d = none := by
  subst hd
  cases hc : s.chans[d]? with
  | none => simp [State.writerOf, hc]
  | some dh => simp [State.writerOf, hc, State.txJob_of_writePending hc hw, TxJob.caller]

theorem LockAfter.onTransport {s : State} {a : Agent} {c : ChanId} {f : Chan → Answer}
    (h : ∀ ch, s.chans[c]? = some ch → MaySend s a c → LockAfter s (f ch)) : LockAfter s (s.onTransport a c f) := by
  refine .onChan fun ch hc => ?_
  split
  · rename_i hh
    split
    · exact .refused _
    · rename_i hw
      have hidle : s.writePending (s.mediumOf c) = false := by simpa using hw
      exact h ch hc ⟨eq_of_beq hh, fun d hd => State.writerOf_idle hidle hd⟩
  · exact .refused _

/-! ## Receiver -/

theorem lockAfter_rxContinue {s : State} {c : ChanId} {ch ch' : Chan} (hc : s.chans[c]? = some ch)
    (hp : ch'.lockPlace = ch.lockPlace := by rfl) : LockAfter s (.next (s.setChan c ch'.rxContinue)) := by
  have hplace : ch'.rxContinue.lockPlace = ch'.lockPlace := by
    unfold Chan.rxContinue
    split
    · rename_i hctl
      exact Chan.lockPlace_outside (by rw [hctl]; rfl) rfl rfl
    · rfl
  exact .unmoved ((Unmoved.refl s).setChan hc (hplace.trans hp))

theorem lockAfter_rxNoData (s : State) (c : ChanId) : LockAfter s (rxNoData c s) :=
  .onChan fun _ hc => .unmoved (((Unmoved.refl s).setChan hc).ret _)

theorem lockAfter_rxMidframe (s : State) (c : ChanId) : LockAfter s (rxMidframe c s) :=
  .onChan fun _ _ => .unmoved (Unmoved.raise (.refl s))

theorem lockAfter_rxPayload (s : State) (c : ChanId) (b : Byte) : LockAfter s (execRxPayload c b s) := by
  refine .onChan fun ch hc => ?_
  split
  · exact lockAfter_rxContinue hc
  · exact .fault _

theorem lockAfter_rxCrc (s : State) (c : ChanId) (b : Byte) : LockAfter s (execRxCrc c b s) := by
  refine .onChan fun ch hc => ?_
  split
  · exact .unmoved ((((Unmoved.refl s).setChan hc).signal _).ret _)
  · exact .unmoved (Unmoved.raise (.refl s))

/-- Whatever operation the receiver's state selects (R111). -/
theorem lockAfter_decodeRx (s : State) (start : Byte) (st : RxState) (c : ChanId) (e : RxEvent) :
    LockAfter s (exec (decodeRx start st c e) s) := by
  have quiet (e : RxEvent) (he : e = .timeout ∨ e = .chReset) : LockAfter s (exec (decodeRx start st c e) s) := by
    rcases he with rfl | rfl
    all_goals
      unfold decodeRx
      dsimp only
      split
      · exact lockAfter_rxMidframe s c
      · exact lockAfter_rxNoData s c
  cases e with
  | byte b =>
    cases st with
    | waitStart =>
      unfold decodeRx
      dsimp only
      split
      · exact .onChan fun _ hc => lockAfter_rxContinue hc
      · exact .onChan fun _ hc => lockAfter_rxContinue hc
    | seq => exact .onChan fun _ hc => lockAfter_rxContinue hc
    | msgid => exact .onChan fun _ hc => lockAfter_rxContinue hc
    | len => exact .onChan fun _ hc => lockAfter_rxContinue hc
    | payload => exact lockAfter_rxPayload s c b
    | crc => exact lockAfter_rxCrc s c b
  | timeout => exact quiet _ (.inl rfl)
  | chReset => exact quiet _ (.inr rfl)

/-! ## Locks -/

/-- Agent `a` is about to acquire the lock of session `c` (R205, R221, R229). -/
inductive AcquiresAt (s : State) : Agent → ChanId → Prop where
  | worker {c : ChanId} {ch : Chan} (hc : s.chans[c]? = some ch)
      (hctl : ch.ctl = .startAcq ∨ ∃ h t body, ch.ctl = .replyAcq h t body) : AcquiresAt s (.worker c) c
  | bcast {k : BcastId} {b : Bcast} {c : ChanId} (hb : s.findBcast k = some b) (hst : b.stage = .acq c) :
      AcquiresAt s (.bcast k) c

/-- Agent `a` is about to release the lock of session `c` (R205, R221, R229). -/
inductive ReleasesAt (s : State) : Agent → ChanId → Prop where
  | worker {c : ChanId} {ch : Chan} (hc : s.chans[c]? = some ch)
      (hctl : ch.ctl = .startRel ∨ ∃ h r, ch.ctl = .replyRel h r) : ReleasesAt s (.worker c) c
  | bcast {k : BcastId} {b : Bcast} {c : ChanId} {after : AfterRel} (hb : s.findBcast k = some b)
      (hst : b.stage = .rel c after) : ReleasesAt s (.bcast k) c

theorem Bcast.afterAcq_lockOf (k : Config) (b : Bcast) (c : ChanId) :
    (b.afterAcq k c).lockOf = some c ∧ (b.afterAcq k c).waitsOn = none := by
  unfold Bcast.afterAcq
  split
  · exact ⟨rfl, rfl⟩
  · split <;> exact ⟨rfl, rfl⟩

theorem AcquiresAt.outside {s : State} {a : Agent} {c : ChanId} (h : AcquiresAt s a c) :
    a ≠ .driver ∧ s.sessionOf a = none := by
  cases h with
  | worker hc hctl =>
    refine ⟨by simp, (State.sessionOf_outside hc).mpr ?_⟩
    rcases hctl with e | ⟨_, _, _, e⟩ <;> rw [e] <;> rfl
  | bcast hb hst => exact ⟨by simp, by simp [State.sessionOf, hb, hst, BcastStage.lockOf]⟩

theorem AcquiresAt.acquired {s : State} {a : Agent} {c : ChanId} (h : AcquiresAt s a c) :
    (s.resume a .acquired).lockView = s.lockView.moved a (some c) none := by
  cases h with
  | @worker c ch hc hctl =>
    rw [State.lockView_resume_worker hc]
    rcases hctl with e | ⟨_, _, _, e⟩ <;> simp [Chan.resume, e, WorkerCtl.holdsLock, WorkerCtl.waits]
  | @bcast k b c hb hst =>
    obtain ⟨hl, hw⟩ := b.afterAcq_lockOf s.config c
    obtain rfl := State.findBcast_id hb
    rw [State.resume_bcast hb]
    simp only [State.resumeBcast, hst]
    rw [State.lockView_updBcast hb, hl, hw]

theorem ReleasesAt.inside {s : State} {a : Agent} {c : ChanId} (h : ReleasesAt s a c) :
    a ≠ .driver ∧ s.sessionOf a = some c := by
  cases h with
  | @worker c ch hc hctl =>
    refine ⟨by simp, State.sessionOf_worker.mpr ⟨rfl, ch, hc, ?_⟩⟩
    rcases hctl with e | ⟨_, _, e⟩ <;> rw [e] <;> rfl
  | bcast hb hst => exact ⟨by simp, by simp [State.sessionOf, hb, hst, BcastStage.lockOf]⟩

theorem ReleasesAt.released {s : State} {a : Agent} {c : ChanId} (h : ReleasesAt s a c) :
    (s.resume a .released).lockView = s.lockView.moved a none none := by
  cases h with
  | @worker c ch hc hctl =>
    rw [State.lockView_resume_worker hc]
    rcases hctl with e | ⟨_, _, e⟩ <;> simp [Chan.resume, e, WorkerCtl.holdsLock, WorkerCtl.waits]
  | @bcast k b c after hb hst =>
    obtain rfl := State.findBcast_id hb
    rw [State.resume_bcast hb]
    cases after with
    | sent r =>
      simp only [State.resumeBcast, hst]
      exact State.lockView_updBcast hb
    | encFailed cause =>
      simp only [State.resumeBcast, hst]
      exact State.lockView_bcastReturn s b _

theorem State.lockView_setLock {s : State} {m : MediumId} {l : Lock} (h : s.locks[m]? = some l) (l' : Lock) :
    (s.setLock m l').lockView = { s.lockView with lock := Function.update s.lockView.lock m (some l') } := by
  have hlock : (fun i => (s.setLock m l').locks[i]?) = Function.update s.lockView.lock m (some l') := by
    funext i
    by_cases hi : i = m
    · subst hi
      simp [(List.getElem?_eq_some_iff.mp h).1]
    · simp [State.lockView, hi, List.getElem?_set_ne (Ne.symm hi)]
  rw [← hlock]
  rfl

/-- An agent that is about to acquire a lock acquires it, or waits (R75). -/
theorem lockAfter_lockAcq {s : State} {a : Agent} {c : ChanId} (h : AcquiresAt s a c) :
    LockAfter s (execLockAcq a (s.mediumOf c) s) := by
  unfold execLockAcq
  split
  · exact .fault _
  · rename_i hfree
    obtain ⟨ha, hout⟩ := h.outside
    have h' : AcquiresAt (s.setLock (s.mediumOf c) (.held a)) a c := by
      cases h with
      | worker hc hctl => exact .worker hc hctl
      | bcast hb hst => exact .bcast hb hst
    have hview : ((s.setLock (s.mediumOf c) (.held a)).resume a .acquired).lockView = s.lockView.acquired a c := by
      rw [h'.acquired, State.lockView_setLock hfree]
      rfl
    exact .next ⟨by rw [hview]; exact .acquire ha hout hfree,
      ((contextsKept_setLock s _ _).trans (contextsKept_resume _ a (by simp))).contexts⟩
  · exact .self s

/-- An agent that is about to release a lock releases the one it holds (R75). -/
theorem lockAfter_lockRel {s : State} {a : Agent} {c : ChanId} (h : ReleasesAt s a c) :
    LockAfter s (execLockRel a (s.mediumOf c) s) := by
  unfold execLockRel
  split
  · exact .fault _
  · rename_i l hl
    split
    · split
      · exact .refused _
      · rename_i hw
        have hidle : s.writePending (s.mediumOf c) = false := by simpa using hw
        obtain ⟨ha, hin⟩ := h.inside
        have h' : ReleasesAt (s.setLock (s.mediumOf c) .free) a c := by
          cases h with
          | worker hc hctl => exact .worker hc hctl
          | bcast hb hst => exact .bcast hb hst
        have hview : ((s.setLock (s.mediumOf c) .free).resume a .released).lockView = s.lockView.released a c := by
          rw [h'.released, State.lockView_setLock hl]
          rfl
        exact .next ⟨by rw [hview]; exact .release ha hin fun d hd => State.writerOf_idle hidle hd,
          ((contextsKept_setLock s _ _).trans (contextsKept_resume _ a (by simp))).contexts⟩
    · exact .refused _

/-! ## Sender -/

/-- Agent `a` is about to call its send on channel `c` (R205, R229). -/
inductive SendsAt (s : State) : Agent → ChanId → Prop where
  | worker {c : ChanId} {ch : Chan} {h : HandlerKind} (hc : s.chans[c]? = some ch) (hctl : ch.ctl = .replySend h) :
      SendsAt s (.worker c) c
  | bcast {k : BcastId} {b : Bcast} {c : ChanId} (hb : s.findBcast k = some b)
      (hst : b.stage = .send c ∨ b.stage = .raw c) : SendsAt s (.bcast k) c

theorem SendsAt.ne_driver {s : State} {a : Agent} {c : ChanId} (h : SendsAt s a c) : a ≠ .driver := by
  cases h <;> simp

theorem SendsAt.waitsOn {s : State} {a : Agent} {c : ChanId} (h : SendsAt s a c) : s.waitsOn a = none := by
  cases h with
  | worker hc hctl => simp [State.waitsOn, hc, hctl, WorkerCtl.waits]
  | bcast hb hst => rcases hst with e | e <;> simp [State.waitsOn, hb, e, BcastStage.waitsOn]

/-- Registers other than places are written. -/
theorem SendsAt.setChan {s : State} {a : Agent} {c : ChanId} (h : SendsAt s a c) {ch ch' : Chan}
    (hc : s.chans[c]? = some ch) (hctl : ch'.ctl = ch.ctl := by rfl) : SendsAt (s.setChan c ch') a c := by
  cases h with
  | worker hc' hctl' =>
    rw [hc, Option.some_inj] at hc'
    subst hc'
    exact .worker (State.setChan_get_self hc ch') (hctl.trans hctl')
  | bcast hb hst => exact .bcast hb hst

theorem SendsAt.accepted {s : State} {a : Agent} {c : ChanId} (h : SendsAt s a c) :
    (s.resume a .accepted).lockView = s.lockView.moved a (s.lockView.session a) (some c) := by
  cases h with
  | @worker c ch _ hc hctl =>
    have hin : s.sessionOf (.worker c) = some c := State.sessionOf_worker.mpr ⟨rfl, ch, hc, by rw [hctl]; rfl⟩
    rw [State.lockView_resume_worker hc]
    simp [Chan.resume, hctl, WorkerCtl.holdsLock, WorkerCtl.waits, State.lockView, hin]
  | @bcast k b c hb hst =>
    have hin : s.sessionOf (.bcast k) = some c := by
      rcases hst with e | e <;> simp [State.sessionOf, hb, e, BcastStage.lockOf]
    have hwait : s.resumeBcast b .accepted = s.updBcast b.id fun b => { b with stage := .wait c } := by
      rcases hst with e | e <;> simp [State.resumeBcast, e]
    obtain rfl := State.findBcast_id hb
    rw [State.resume_bcast hb, hwait, State.lockView_stage hb]
    simp [State.lockView, hin, BcastStage.lockOf, BcastStage.waitsOn]

/-- The write pending on a channel is another, its worker stands where it did. -/
theorem State.lockView_setJob {s : State} {c : ChanId} {ch ch' : Chan} (hc : s.chans[c]? = some ch)
    (hctl : ch'.ctl = ch.ctl) :
    (s.setChan c ch').lockView =
      { s.lockView with writer := Function.update s.lockView.writer c ch'.txJob.caller } := by
  have hsession : (if ch'.ctl.holdsLock then some c else none) = s.lockView.session (.worker c) := by
    simp [State.lockView, State.sessionOf, hc, hctl]
  have hwaits : (if ch'.ctl.waits then some c else none) = s.lockView.waits (.worker c) := by
    simp [State.lockView, State.waitsOn, hc, hctl]
  rw [State.lockView_setChan hc, hsession, hwaits, LockView.moved_self]
  rfl

/-- A write is called by the holder of the lock, with none pending on its medium (R161, R166). -/
theorem lockStep_called {s : State} {a : Agent} {c : ChanId} {ch ch' : Chan} (h : SendsAt s a c) (hm : MaySend s a c)
    (hc : s.chans[c]? = some ch) (hj : ch'.txJob.caller = some a) (hctl : ch'.ctl = ch.ctl := by rfl) :
    LockStep s ((s.setChan c ch').resume a .accepted) := by
  have hview : ((s.setChan c ch').resume a .accepted).lockView = s.lockView.called a c := by
    rw [(h.setChan hc hctl).accepted, State.lockView_setJob hc hctl, hj]
    rfl
  exact ⟨by rw [hview]; exact .call h.ne_driver hm.held hm.idle,
    ((contextsKept_setChan s c ch').trans (contextsKept_resume _ a (by simp))).contexts⟩

/-- The pending write of `a` ends, with either result (R161, R164, R166). -/
theorem lockStep_ended {s t : State} {a : Agent} {c : ChanId} {ch : Chan} (hc : s.chans[c]? = some ch)
    (hj : ch.txJob.caller = some a) (ch' : Chan) (hj' : ch'.txJob = .none) (hctl : ch'.ctl = ch.ctl) {r : Result}
    (hr : r = .txOk ∨ r = .txFail) (hview : t.lockView = (s.setChan c ch').lockView := by rfl)
    (hb : t.bcasts = s.bcasts := by rfl) (hn : t.nextBc = s.nextBc := by rfl) : LockStep s (t.ret a r) := by
  have hw : s.lockView.writer c = some a := State.writerOf_eq_some.mpr ⟨ch, hc, hj⟩
  have hended : (t.ret a r).lockView = s.lockView.ended a c := by
    rw [State.lockView_ret_sent t a hr, hview, State.lockView_setJob hc hctl, hj']
    rfl
  have henc : r ≠ .encOk := by rcases hr with rfl | rfl <;> simp
  exact ⟨by rw [hended]; exact .ended hw, ((ContextsKept.of_eq hb hn).trans (contextsKept_ret t a henc)).contexts⟩

/-- A byte of a `TX.SEND` moves no worker; the write is still its caller's, or has ended. -/
theorem Chan.sendByte_job {k : Config} {ch ch' : Chan} {b : Byte} (h : ch.sendByte k = some (b, ch')) :
    ch'.ctl = ch.ctl ∧ (ch'.txJob ≠ .none → ch'.txJob = ch.txJob) := by
  unfold Chan.sendByte at h
  split at h <;> cases h <;> simp

theorem lockAfter_sendReady (s : State) (c : ChanId) : LockAfter s (sendReady c s) := by
  refine .onChan fun ch hc => ?_
  split
  · rename_i a hj
    split
    · exact .fault _
    · split
      · exact .self s
      · rename_i b ch' hb
        obtain ⟨hctl, hjob⟩ := Chan.sendByte_job hb
        dsimp only
        split
        · rename_i hn
          exact .next (lockStep_ended hc (by rw [hj]; rfl) ch' hn hctl (.inl rfl))
        · rename_i hn
          have hplace : ch'.lockPlace = ch.lockPlace := by rw [Chan.lockPlace, hctl, hjob hn, Chan.lockPlace]
          exact .unmoved (((Unmoved.refl s).setChan hc hplace).output _)
  · exact .self s

/-- A pending write of `a` fails (R164). -/
theorem lockAfter_txFail {s : State} {a : Agent} {c : ChanId} {ch : Chan} (hc : s.chans[c]? = some ch)
    (hj : ch.txJob.caller = some a) : LockAfter s (.next (s.raise (.txFail c a))) := by
  rw [State.raise_txFail hc]
  exact .next (lockStep_ended hc hj ch.aborted rfl rfl (.inr rfl))

theorem lockAfter_sendAbort (s : State) (c : ChanId) : LockAfter s (sendAbort c s) := by
  refine .onChan fun ch hc => ?_
  split
  · rename_i a hj
    exact lockAfter_txFail hc (by rw [hj]; rfl)
  · exact .self s

/-- What reaches a pending `TX.SEND`. -/
theorem lockAfter_txSend (s : State) (c : ChanId) {x : SendInput} (hx : ∀ a m, x ≠ .call a m) :
    LockAfter s (execTxSend c x s) := by
  cases x with
  | call a m => exact absurd rfl (hx a m)
  | ready => exact lockAfter_sendReady s c
  | timeout => exact lockAfter_sendAbort s c
  | chReset => exact lockAfter_sendAbort s c

theorem lockAfter_sendCall {s : State} {a : Agent} {c : ChanId} (h : SendsAt s a c) (msgid : Byte) :
    LockAfter s (sendCall c a msgid s) :=
  .onTransport fun _ hc hm => .next (lockStep_called h hm hc rfl)

/-- The call of `TX.RAW`; an empty byte string is written at once, and its caller is back where it was (R166). -/
theorem lockAfter_rawCall {s : State} {a : Agent} {c : ChanId} (h : SendsAt s a c) (frame : List Byte) :
    LockAfter s (rawCall c a frame s) := by
  refine .onTransport fun ch hc hm => ?_
  cases frame with
  | cons b rest => exact .next (lockStep_called h hm hc rfl)
  | nil =>
    have hj : ch.txJob = .none := by
      have hidle := hm.idle c rfl
      simpa [State.lockView, State.writerOf, hc] using hidle
    have hset : Unmoved s (s.setChan c (ch.rawCalled a [])) :=
      (Unmoved.refl s).setChan hc (by simp [Chan.lockPlace, Chan.rawCalled, hj])
    have hcall := (h.setChan hc (ch' := ch.rawCalled a [])).accepted
    have hview : (((s.setChan c (ch.rawCalled a [])).resume a .accepted).ret a .txOk).lockView = s.lockView := by
      rw [State.lockView_ret_sent _ a (.inl rfl), hcall, hset.view]
      simp [LockView.moved, show none = s.lockView.waits a from h.waitsOn.symm]
    exact .unmoved ⟨hview, hset.contexts.trans ((contextsKept_resume _ a (by simp)).trans
      (contextsKept_ret _ a (by simp)))⟩

theorem lockAfter_rawReady (s : State) (c : ChanId) : LockAfter s (rawReady c s) := by
  refine .onChan fun ch hc => ?_
  split
  · rename_i a b rest hj
    cases rest with
    | nil => exact .next (lockStep_ended hc (by rw [hj]; rfl) (ch.rawTaken a []) rfl rfl (.inl rfl))
    | cons x xs =>
      exact .unmoved (((Unmoved.refl s).setChan hc (by rw [Chan.lockPlace, Chan.lockPlace, hj]; rfl)).output _)
  · exact .self s

theorem lockAfter_rawAbort (s : State) (c : ChanId) : LockAfter s (rawAbort c s) := by
  refine .onChan fun ch hc => ?_
  split
  · rename_i a rest hj
    exact lockAfter_txFail hc (by rw [hj]; rfl)
  · exact .self s

/-- What reaches a pending `TX.RAW`. -/
theorem lockAfter_txRaw (s : State) (c : ChanId) {x : RawInput} (hx : ∀ a f, x ≠ .call a f) :
    LockAfter s (execTxRaw c x s) := by
  cases x with
  | call a f => exact absurd rfl (hx a f)
  | ready => exact lockAfter_rawReady s c
  | timeout => exact lockAfter_rawAbort s c
  | chReset => exact lockAfter_rawAbort s c

/-! ## Envelope codec -/

/-- A broadcast keeps the frame it has encoded (R205); nothing else is kept of an encode. -/
theorem contexts_resume_encOk (s : State) (a : Agent) : Contexts s (s.resume a (.result .encOk)) := by
  cases a with
  | driver => exact (ContextsKept.refl s).contexts
  | worker c => exact (ContextsKept.of_eq (State.resume_bcasts (by simp) _) (State.resume_nextBc ..)).contexts
  | bcast k =>
    cases hb : s.findBcast k with
    | none =>
      rw [State.resume_bcast_none hb]
      exact (ContextsKept.refl s).contexts
    | some b =>
      obtain rfl := State.findBcast_id hb
      rw [State.resume_bcast hb]
      cases hst : b.stage with
      | encode c =>
        simp only [State.resumeBcast, hst]
        refine .kept (by rw [owners_updBcast]) rfl fun j b' hj => ?_
        rw [State.findBcast_updBcast _ _ _ (by intro; rfl)] at hj
        split at hj
        · rename_i hjb
          exact ⟨b, hjb ▸ hb, fun hne => absurd hst (hne c)⟩
        · exact ⟨b', hj, fun _ => rfl⟩
      | _ =>
        simp only [State.resumeBcast, hst]
        exact (ContextsKept.refl s).contexts

theorem lockAfter_envEncode (s : State) (a : Agent) (c : ChanId) (t : Nat) (body : List Byte) :
    LockAfter s (execEnvEncode a c t body s) := by
  refine .onTransport fun ch hc _ => ?_
  split
  · exact .unmoved (Unmoved.raise (.refl s))
  · dsimp only
    split
    · exact .unmoved (Unmoved.raise (.refl s))
    · have hset : Unmoved s (s.setChan c (ch.loaded (envelope t body))) := (Unmoved.refl s).setChan hc
      refine .next ⟨?_, (contexts_resume_encOk (State.output _ _) a).congr⟩
      rw [State.lockView_ret_same _ a rfl, hset.view.symm]
      exact .same

/-! ## Registry and broadcast -/

theorem unmoved_clearSlot {s : State} {c : ChanId} {ch : Chan} (hc : s.chans[c]? = some ch) :
    Unmoved s (clearSlot c ch s) := by
  unfold clearSlot
  split
  · exact ((Unmoved.refl s).setReg _ none).setChan hc
  · exact .refl s

theorem lockAfter_regClaim (s : State) (c : ChanId) (i : SlotId) : LockAfter s (execRegClaim c i s) := by
  refine .onChan fun ch hc => ?_
  split
  · split
    · exact .unmoved (Unmoved.ret (((Unmoved.refl s).setReg _ _).setChan hc) _)
    · split
      · exact .unmoved ((Unmoved.refl s).resume _ rfl (by simp))
      · exact .unmoved (Unmoved.raise (.refl s))
    · exact .unmoved (Unmoved.raise (.refl s))
  · exact .refused _

/-- A new context stands outside every critical section. -/
theorem State.lockView_beginBcast (s : State) (caller : BcastCaller) (tag : Nat) (body : List Byte) :
    (s.beginBcast caller tag body).lockView = s.lockView := by
  have hfind (k : BcastId) : (s.beginBcast caller tag body).findBcast k =
      (s.findBcast k).or (if s.nextBc = k then some (newBcast s caller tag body) else none) := by
    simp [State.findBcast, State.beginBcast, newBcast]
  refine State.lockView_ext rfl rfl (fun a => ?_) (fun a => ?_) fun _ => rfl
  · cases a with
    | driver => rfl
    | worker c => rfl
    | bcast k =>
      rw [State.sessionOf, State.sessionOf, hfind]
      cases s.findBcast k with
      | some b => rfl
      | none => by_cases h : s.nextBc = k <;> simp [h, newBcast, BcastStage.lockOf]
  · cases a with
    | driver => rfl
    | worker c => rfl
    | bcast k =>
      rw [State.waitsOn, State.waitsOn, hfind]
      cases s.findBcast k with
      | some b => rfl
      | none => by_cases h : s.nextBc = k <;> simp [h, newBcast, BcastStage.waitsOn]

/-- A caller outside its critical section begins a broadcast and is blocked in it (R203, R230). -/
theorem lockAfter_beginBcast {s : State} {c : ChanId} {ch ch' : Chan} (hc : s.chans[c]? = some ch)
    (h : ch.ctl.holdsLock = false) {caller : BcastCaller} (hcaller : caller ≠ .driver) (tag : Nat) (body : List Byte)
    (h' : ch'.ctl.holdsLock = false := by rfl) (hj : ch'.txJob = ch.txJob := by rfl) :
    LockAfter s (.next ((s.setChan c ch').beginBcast caller tag body)) := by
  refine .next ⟨?_, .called (b := newBcast s caller tag body) rfl hcaller rfl rfl⟩
  rw [State.lockView_beginBcast, (unmoved_outside hc h h' hj).view]
  exact .same

theorem lockAfter_bcastCall_handler (s : State) (c : ChanId) (tag : Nat) (body : List Byte) :
    LockAfter s (bcastCall (.handler c) tag body s) := by
  refine .onChan fun ch hc => ?_
  split
  · rename_i hctl
    exact lockAfter_beginBcast hc (by rw [hctl]; rfl) (by simp) tag body
  · exact .self s

/-- A context is written and stands where it did. -/
theorem unmoved_updBcast {s : State} {k : BcastId} {b : Bcast} (hb : s.findBcast k = some b) {f : Bcast → Bcast}
    (hl : (f b).stage.lockOf = b.stage.lockOf) (hw : (f b).stage.waitsOn = b.stage.waitsOn)
    (ho : ∀ b, (f b).owner = b.owner := by intro; rfl) (hf : ∀ b, (f b).frame = b.frame := by intro; rfl) :
    Unmoved s (s.updBcast k f) :=
  ⟨State.lockView_updBcast_same hb hl hw fun b => (congrArg Prod.fst (ho b) :), contextsKept_updBcast s k ho hf⟩

theorem lockAfter_bcastVisit {s : State} {k : BcastId} {b : Bcast} (hb : s.findBcast k = some b)
    (hst : b.stage = .visit) (i : SlotId) : LockAfter s (bcastVisit k i s) := by
  unfold bcastVisit
  rw [hb]
  dsimp only
  split
  · refine .unmoved (unmoved_updBcast hb ?_ ?_) <;> rw [hst] <;> dsimp only <;> split <;> rfl
  · exact .self s

theorem lockAfter_bcastCopy (s : State) (k : BcastId) : LockAfter s (bcastCopy k s) := by
  unfold bcastCopy
  split
  · exact .self s
  · rename_i b hb
    split
    · rename_i c hst
      exact .onTransport fun ch hc _ => .unmoved (((Unmoved.refl s).setChan hc).trans
        (unmoved_updBcast (s := s.setChan c _) hb (by rw [hst]; rfl) (by rw [hst]; rfl)))
    · exact .self s

theorem lockAfter_bcastFinish (s : State) (k : BcastId) : LockAfter s (bcastFinish k s) := by
  unfold bcastFinish
  split
  · exact .self s
  · rename_i b hb
    split
    · rename_i h
      obtain rfl := State.findBcast_id hb
      refine .unmoved ⟨?_, contextsKept_bcastReturn s b _⟩
      have hsession : none = s.lockView.session (.bcast b.id) := by
        simp [State.lockView, State.sessionOf, hb, h.2, BcastStage.lockOf]
      have hwaits : none = s.lockView.waits (.bcast b.id) := by
        simp [State.lockView, State.waitsOn, hb, h.2, BcastStage.waitsOn]
      rw [State.lockView_bcastReturn, ← (s.lockView.moved_self (.bcast b.id)), ← hsession, ← hwaits]
      simp [LockView.moved]
    · exact .self s

/-! ## Operations selected by the worker's place -/

section AtPlace

variable {s : State} {c : ChanId} {ch : Chan} (hc : s.chans[c]? = some ch)
include hc

theorem lockAfter_startInit (hctl : ch.ctl = .startInit) : LockAfter s (startInit c s) :=
  .at hc (.unmoved ((Unmoved.refl s).setChan hc (by rw [Chan.lockPlace, Chan.lockPlace, hctl]; rfl)))

theorem lockAfter_rxReceive (hctl : ch.ctl = .recvTop) : LockAfter s (execRxReceive c s) := by
  refine .at hc ?_
  split
  · exact .unmoved (Unmoved.ret (.refl s) _)
  · exact .unmoved (unmoved_outside hc (by rw [hctl]; rfl))

section Outside

variable (hout : ch.ctl.holdsLock = false)
include hout

theorem lockAfter_startArm : LockAfter s (startArm c s) := .at hc (.unmoved (unmoved_outside hc hout))

theorem lockAfter_startEnter : LockAfter s (startEnter c s) := .at hc (.unmoved (unmoved_outside hc hout))

theorem lockAfter_statusCall : LockAfter s (.next (statusCall c ch s)) :=
  .unmoved ((unmoved_outside hc hout).output _)

theorem lockAfter_sesStatus (x : StatusInput) : LockAfter s (execSesStatus c x s) := by
  refine .at hc ?_
  cases x with
  | compare =>
    dsimp only
    split
    · exact lockAfter_statusCall hc hout
    · exact .unmoved ((Unmoved.refl s).setChan hc)
  | due => exact lockAfter_statusCall hc hout
  | handlerDone => exact .unmoved (unmoved_outside hc hout)

theorem lockAfter_sesReceive : LockAfter s (execSesReceive c s) := by
  refine .at hc ?_
  split
  · exact .unmoved (unmoved_outside hc hout)
  · exact .unmoved (unmoved_outside hc hout)
  · exact .self s

theorem lockAfter_endDispatch : LockAfter s (.next (s.setChan c ch.endDispatch)) :=
  .unmoved (unmoved_outside hc hout)

theorem lockAfter_sesDispatch (x : DispatchInput) : LockAfter s (execSesDispatch c x s) := by
  refine .at hc ?_
  cases x with
  | pass1 =>
    dsimp only
    split
    · exact .unmoved (unmoved_outside hc hout)
    · exact lockAfter_endDispatch hc hout
  | handlerDone => exact lockAfter_endDispatch hc hout

theorem lockAfter_dropSilently : LockAfter s (dropSilently c s) := .at hc (lockAfter_endDispatch hc hout)

theorem unmoved_dropBadBody : Unmoved s (dropBadBody c s) :=
  (Unmoved.raise (.refl s)).outside ((State.sessionOf_outside hc).mpr hout)

theorem lockAfter_routeToHandler (v : Variant) (w : BitVec 3) : LockAfter s (routeToHandler v c w s) := by
  refine .at hc (.unmoved ?_)
  split
  · exact ((Unmoved.ret (.refl s) _).output _).outside ((State.sessionOf_outside hc).mpr hout)
  · exact unmoved_dropBadBody hc hout

theorem lockAfter_decodeAndDiscard (v : Variant) (w : BitVec 3) : LockAfter s (decodeAndDiscard v c w s) := by
  refine .at hc (.unmoved ?_)
  split
  · exact (Unmoved.ret (.refl s) _).outside ((State.sessionOf_outside hc).mpr hout)
  · exact unmoved_dropBadBody hc hout

theorem lockAfter_memoryDumpRequest (w : BitVec 3) : LockAfter s (execEnvMemoryDumpRequest c w s) := by
  unfold execEnvMemoryDumpRequest
  split
  · exact lockAfter_routeToHandler hc hout _ w
  · exact lockAfter_dropSilently hc hout

/-- Every row of the dispatch table (R227). -/
theorem lockAfter_ofVariant (v : Variant) (w : BitVec 3) : LockAfter s (exec (Instr.ofVariant v c w) s) := by
  cases v with
  | status => exact lockAfter_dropSilently hc hout
  | statusText => exact lockAfter_dropSilently hc hout
  | timeReference => exact lockAfter_routeToHandler hc hout _ w
  | command => exact lockAfter_routeToHandler hc hout _ w
  | paramRequest => exact lockAfter_routeToHandler hc hout _ w
  | paramSet => exact lockAfter_routeToHandler hc hout _ w
  | paramValue => exact lockAfter_dropSilently hc hout
  | logRequest => exact lockAfter_decodeAndDiscard hc hout _ w
  | memoryDumpRequest => exact lockAfter_memoryDumpRequest hc hout w
  | memoryDumpPage => exact lockAfter_dropSilently hc hout

theorem lockAfter_sesStop : LockAfter s (execSesStop c s) := by
  refine .at hc ?_
  split
  · exact .unmoved ((unmoved_clearSlot hc).updChan c)
  · exact .at hc (lockAfter_beginBcast hc hout (by simp) _ _)
  · exact .self s

end Outside

/-- The operation a worker's phase selects (R220). -/
theorem lockAfter_phaseOp (hctl : ch.ctl = .run) {i : Instr} (ho : phaseOp c ch = some i) : LockAfter s (exec i s) := by
  have hout : ch.ctl.holdsLock = false := by rw [hctl]; rfl
  unfold phaseOp at ho
  split at ho
  case h_1 => cases ho
  case h_2 => cases ho; exact .at hc (.unmoved ((Unmoved.refl s).setChan hc))
  case h_3 => cases ho; exact lockAfter_sesStatus hc hout .compare
  case h_4 => cases ho; exact lockAfter_sesReceive hc hout
  case h_5 => cases ho; exact lockAfter_sesDispatch hc hout .pass1
  case h_6 =>
    split at ho
    · cases ho; exact .at hc (.unmoved (unmoved_clearSlot hc))
    · cases ho; exact lockAfter_sesStop hc hout
  case h_7 => cases ho; exact lockAfter_sesStop hc hout

/-- The operation a worker's place selects (R142, R221, R226, R229, R230). -/
theorem lockAfter_workerOp {s0 : State} (hm : s0.medium = s.medium) {i : Instr} (ho : workerOp s0 c ch = some i) :
    LockAfter s (exec i s) := by
  have hmed : s0.mediumOf c = s.mediumOf c := by rw [State.mediumOf, hm, State.mediumOf]
  unfold workerOp at ho
  rw [hmed] at ho
  split at ho
  case h_1 hctl => exact lockAfter_phaseOp hc hctl ho
  case h_2 hctl => cases ho; exact lockAfter_lockAcq (.worker hc (.inl hctl))
  case h_3 hctl => cases ho; exact lockAfter_startInit hc hctl
  case h_4 hctl => cases ho; exact lockAfter_lockRel (.worker hc (.inl hctl))
  case h_5 hctl => cases ho; exact lockAfter_startArm hc (by rw [hctl]; rfl)
  case h_6 => cases ho; exact lockAfter_regClaim s c _
  case h_7 hctl => cases ho; exact lockAfter_startEnter hc (by rw [hctl]; rfl)
  case h_8 hctl => cases ho; exact lockAfter_rxReceive hc hctl
  case h_9 => cases ho
  case h_10 hctl => cases ho; exact lockAfter_sesReceive hc (by rw [hctl]; rfl)
  case h_11 v off w hctl => cases ho; exact lockAfter_ofVariant hc (by rw [hctl]; rfl) v w
  case h_12 => cases ho
  case h_13 hctl => cases ho; exact lockAfter_lockAcq (.worker hc (.inr ⟨_, _, _, hctl⟩))
  case h_14 => cases ho; exact lockAfter_envEncode s _ c _ _
  case h_15 hctl => cases ho; exact lockAfter_sendCall (.worker hc hctl) _
  case h_16 => cases ho
  case h_17 hctl => cases ho; exact lockAfter_lockRel (.worker hc (.inr ⟨_, _, hctl⟩))
  case h_18 => cases ho
  case h_19 => cases ho

end AtPlace

/-! ## Every selected operation -/

/-- The operation a broadcast's place selects (R204 to R206, R209). -/
theorem lockAfter_bcastOp {s : State} {k : BcastId} {b : Bcast} (hb : s.findBcast k = some b) {j : SlotId} {i : Instr}
    (ho : bcastOp s b j = some i) : LockAfter s (exec i s) := by
  obtain rfl := State.findBcast_id hb
  unfold bcastOp at ho
  split at ho
  case h_1 hst =>
    split at ho
    · cases ho; exact lockAfter_bcastFinish s _
    · split at ho
      · cases ho; exact lockAfter_bcastVisit hb hst _
      · cases ho
  case h_2 hst => cases ho; exact lockAfter_lockAcq (.bcast hb hst)
  case h_3 => cases ho; exact lockAfter_envEncode s _ _ _ _
  case h_4 => cases ho; exact lockAfter_bcastCopy s _
  case h_5 hst => cases ho; exact lockAfter_sendCall (.bcast hb (.inl hst)) _
  case h_6 hst => cases ho; exact lockAfter_rawCall (.bcast hb (.inr hst)) _
  case h_7 => cases ho
  case h_8 hst => cases ho; exact lockAfter_lockRel (.bcast hb hst)

/-- Every operation that a step runs moves at most one agent, from its place. -/
theorem Runs.lockAfter {s t : State} {i : Instr} (h : Runs s i t) : LockAfter t (exec i t) := by
  have outside {ch : Chan} {ctl : WorkerCtl} (hctl : ch.ctl = ctl) (h : ctl.holdsLock = false) :
      ch.ctl.holdsLock = false := hctl ▸ h
  cases h with
  | crcUpdate r b => exact .unmoved (Unmoved.ret (.refl s) _)
  | crcBlock r buf => exact .unmoved (Unmoved.ret (.refl s) _)
  | frame c seq msgid payload crc => exact .onChan fun _ hc => .unmoved ((Unmoved.refl s).setChan hc)
  | worker hc ho script => exact lockAfter_workerOp (s := { s with script := script }) hc rfl ho
  | receiver hc hp hr rxs e => exact lockAfter_decodeRx _ _ _ _ e
  | sender hc hj x hx => exact lockAfter_txSend s _ hx
  | rawSender hc hj x hx => exact lockAfter_txRaw s _ hx
  | start c =>
    refine .onChan fun ch hc => ?_
    split
    · rename_i h
      exact .unmoved (unmoved_outside hc (outside h.2 rfl))
    · exact .self s
  | statusDue hc hp hr => exact lockAfter_sesStatus hc (outside hr rfl) .due
  | statusDone hc hr => exact lockAfter_sesStatus hc (outside hr rfl) .handlerDone
  | dispatchDone hc hr => exact lockAfter_sesDispatch hc (outside hr rfl) .handlerDone
  | reply c tag body =>
    refine .onChan fun ch hc => ?_
    split
    · rename_i hctl
      exact .unmoved (unmoved_outside hc (outside hctl rfl))
    · exact .self s
  | broadcast hc tag body => exact lockAfter_bcastCall_handler s _ tag body
  | bcast hb ho => exact lockAfter_bcastOp hb ho

/-- The state an operation runs in has the agents and the contexts of the step's own. -/
theorem Runs.unmoved {s t : State} {i : Instr} (h : Runs s i t) : Unmoved s t := by
  cases h with
  | worker _ _ script => exact ⟨rfl, .of_eq rfl rfl⟩
  | receiver hc _ _ rxs e => exact (Unmoved.refl s).setChan hc
  | _ => exact .refl s

theorem Runs.bcasts {s t : State} {i : Instr} (h : Runs s i t) : t.bcasts = s.bcasts ∧ t.nextBc = s.nextBc := by
  cases h <;> exact ⟨rfl, rfl⟩

theorem Runs.lockStep {s t u : State} {i : Instr} (h : Runs s i t) (he : exec i t = .next u) : LockStep s u := by
  have ha := h.lockAfter
  rw [he] at ha
  cases ha with
  | next hs =>
    obtain ⟨hb, hn⟩ := h.bcasts
    exact ⟨h.unmoved.view ▸ hs.moves, hs.contexts.congr hb hn⟩

/-! ## A step -/

/-- A worker's or a broadcast's turn, and whatever else selects an operation, has no answer of its own but to do nothing. -/
theorem Plan.ofOption_answer {s t : State} {o : Option Instr} (h : Plan.ofOption s o = .answer (.next t)) : t = s := by
  cases o with
  | none => cases h; rfl
  | some i => cases h

theorem Plan.onChan_answer {s t : State} {c : ChanId} {f : Chan → Plan} (h : Plan.onChan s c f = .answer (.next t)) :
    ∃ ch, f ch = .answer (.next t) := by
  unfold Plan.onChan at h
  split at h
  · exact ⟨_, h⟩
  · cases h

theorem rxInput_medium {s t : State} {c : ChanId} {again : Stim} {arrive : List Byte} {offer reset timeout : Bool}
    (h : rxInput s c again arrive offer reset timeout = .answer (.next t)) : t.medium = s.medium := by
  obtain ⟨ch, h⟩ := Plan.onChan_answer h
  dsimp only at h
  split at h
  · split at h
    · rw [Plan.ofOption_answer h]; rfl
    · rw [Plan.ofOption_answer h]
  · cases h; rfl

theorem txInput_medium {s t : State} {c : ChanId} {x : SendInput} {y : RawInput}
    (h : txInput s c x y = .answer (.next t)) : t.medium = s.medium := by
  obtain ⟨ch, h⟩ := Plan.onChan_answer h
  split at h <;> cases h
  rfl

/-- A stimulus that is no change of medium selection leaves the selection as it is. -/
theorem present_medium {s t : State} {σ : Stim} (hσ : ∀ c m, σ ≠ .selectMedium c m)
    (h : present s σ = .answer (.next t)) : t.medium = s.medium := by
  cases σ with
  | rxByte c b => exact rxInput_medium h
  | rxOffer c => exact rxInput_medium h
  | rxTimeout c => exact rxInput_medium h
  | chResetRx c => exact rxInput_medium h
  | rxCycle c reset byte timeout => exact rxInput_medium h
  | chResetTx c => exact txInput_medium h
  | txReady c => exact txInput_medium h
  | txTimeout c => exact txInput_medium h
  | txCycle c reset ready timeout =>
    unfold present at h
    dsimp only at h
    split at h
    · exact txInput_medium h
    · exact txInput_medium h
    · exact txInput_medium h
    · cases h; rfl
  | start c => cases h
  | reply c tag body => cases h
  | terminate c =>
    obtain ⟨ch, -, h⟩ := State.onChan_next (Plan.answer.inj h)
    cases h
    rfl
  | statusDue c =>
    obtain ⟨ch, h⟩ := Plan.onChan_answer h
    split at h <;> cases h
    rfl
  | handlerDone c =>
    obtain ⟨ch, h⟩ := Plan.onChan_answer h
    split at h <;> cases h
    rfl
  | broadcast caller tag body =>
    cases caller with
    | driver => cases h; rfl
    | handler c =>
      obtain ⟨ch, h⟩ := Plan.onChan_answer h
      cases h
    | stop c => cases h; rfl
  | worker c =>
    obtain ⟨ch, h⟩ := Plan.onChan_answer h
    rw [Plan.ofOption_answer h]
  | bcast k i =>
    have hturn : bcastTurn s k i = .answer (.next t) := h
    unfold bcastTurn at hturn
    split at hturn
    · rw [Plan.ofOption_answer hturn]
    · cases hturn; rfl
  | rst inputs =>
    have hrst : rstInput s inputs = .next t := Plan.answer.inj h
    unfold rstInput at hrst
    split at hrst <;> cases hrst
    rfl
  | clock now =>
    have hclock : clockInput s now = .next t := Plan.answer.inj h
    unfold clockInput at hclock
    split at hclock <;> cases hclock
    rfl
  | selectMedium c m => exact absurd rfl (hσ c m)
  | op word => cases h; rfl

theorem Stim.selectMedium_or (σ : Stim) : (∃ c m, σ = .selectMedium c m) ∨ ∀ c m, σ ≠ .selectMedium c m := by
  cases σ <;> simp

/-- Everything a step can do to locks, agents and contexts: move one agent, reset the block, or change the medium
selection of a channel whose medium's lock is free (R39, R310). -/
inductive Stands (s : State) : State → Prop where
  | moves {t : State} (h : LockStep s t) : Stands s t
  | rst (inputs : CfgRegs) (rest : List Stim) :
      Stands s
        { s with
          cfg    := inputs
          chans  := s.chans.map Chan.afterRst
          reg    := s.reg.map fun _ => none
          locks  := s.locks.map fun _ => .free
          bcasts := []
          nextBc := 0
          script := rest }
  | medium {c : ChanId} (m : MediumId) (rest : List Stim) (hfree : s.locks[s.mediumOf c]? = some .free) :
      Stands s { s with medium := s.medium.set c m, script := rest }

theorem selectMediumInput_stands {s t : State} {c : ChanId} {m : MediumId} {rest : List Stim}
    (h : selectMediumInput { s with script := rest } c m = .next t) : Stands s t := by
  obtain ⟨ch, -, h⟩ := State.onChan_next h
  split at h
  · cases h
  · split at h
    · rename_i hfree
      cases h
      exact .medium m rest hfree.2
    · cases h

theorem step_stands {s t : State} (h : step s = .next t) : Stands s t := by
  cases hs : s.script with
  | nil =>
    rw [step, hs] at h
    cases h
    exact .moves (Unmoved.refl s).lockStep
  | cons σ rest =>
    have hrest : Unmoved s { s with script := rest } := ⟨rfl, .of_eq rfl rfl⟩
    have same {u : State} (hu : Unmoved { s with script := rest } u) : Stands s u := .moves (hrest.trans hu).lockStep
    rw [step_of_script hs] at h
    rcases σ.selectMedium_or with ⟨c, m, rfl⟩ | hσ
    · exact selectMediumInput_stands h
    · have hp := planned { s with script := rest } σ
      generalize hplan : State.plan { s with script := rest } σ = p at h hp
      cases hp with
      | run hr =>
        have hstep := hr.lockStep h
        exact .moves ⟨hstep.moves, hstep.contexts.congr⟩
      | idle script => cases h; exact same ⟨rfl, .of_eq rfl rfl⟩
      | held hc rxs => cases h; exact same ((Unmoved.refl _).setChan hc)
      | terminate hc => cases h; exact same ((Unmoved.refl _).setChan hc)
      | rst hl => cases h; exact .rst _ rest
      | clock now => cases h; exact same ⟨rfl, .of_eq rfl rfl⟩
      | @medium _ c m l hl =>
        cases h
        have hmedium : s.medium.set c m = s.medium := by
          cases σ with
          | op word => exact congrArg State.medium (wordInput_answer hplan)
          | _ => exact present_medium hσ hplan
        refine same ?_
        rw [hmedium]
        exact .refl _
      | noChannel | noMedium | refused => cases h

/-! ## The agreement -/

/-- A channel changes its medium where that medium's lock is free: nobody is in its critical section, and no write is
pending on it (R39, R77). -/
theorem lockInv_selectMedium {s : State} {c : ChanId} {m : MediumId} {rest : List Stim} (h : s.lockInv)
    (hfree : s.locks[s.mediumOf c]? = some .free) :
    { s with medium := s.medium.set c m, script := rest }.lockInv := by
  have hmed (d : ChanId) (hd : s.locks[s.mediumOf d]? ≠ some .free) :
      State.mediumOf { s with medium := s.medium.set c m, script := rest } d = s.mediumOf d := by
    have hdc : c ≠ d := by
      rintro rfl
      exact hd hfree
    simp [State.mediumOf, List.getD_eq_getElem?_getD, List.getElem?_set_ne hdc]
  have held {d : ChanId} {a : Agent} (hd : s.locks[s.mediumOf d]? = some (.held a)) :
      State.mediumOf { s with medium := s.medium.set c m, script := rest } d = s.mediumOf d :=
    hmed d (by simp [hd])
  have hcaller {d : ChanId} {ch : Chan} (hd : s.chans[d]? = some ch) (hj : ch.txJob ≠ .none) :
      ∃ a, s.locks[s.mediumOf d]? = some (.held a) := by
    obtain ⟨a, ha⟩ := Option.ne_none_iff_exists'.mp (mt TxJob.caller_eq_none.mp hj)
    exact ⟨a, h.job d ch a hd ha⟩
  constructor
  case worker =>
    intro d ch hd hctl
    have hl := h.worker d ch hd hctl
    rwa [held hl]
  case bcast =>
    intro b hb d hd
    have hl := h.bcast b hb d hd
    rwa [held hl]
  case ofWorker =>
    intro i d hl
    obtain ⟨rfl, hch⟩ := h.ofWorker i d hl
    exact ⟨(held hl).symm, hch⟩
  case ofBcast =>
    intro i k hl
    obtain ⟨b, hb, hk, d, hd, rfl⟩ := h.ofBcast i k hl
    exact ⟨b, hb, hk, d, hd, (held hl).symm⟩
  case job =>
    intro d ch a hd hj
    have hl := h.job d ch a hd hj
    rwa [held hl]
  case jobWorker => exact h.jobWorker
  case jobBcast => exact h.jobBcast
  case jobs =>
    intro d e ch dh hd he hdj hej hm
    obtain ⟨a, ha⟩ := hcaller hd hdj
    obtain ⟨b, hb⟩ := hcaller he hej
    rw [held ha, held hb] at hm
    exact h.jobs d e ch dh hd he hdj hej hm
  case fresh => exact h.fresh

theorem Chan.afterRst_idle (ch : Chan) : ch.afterRst.ctl.holdsLock = false ∧ ch.afterRst.txJob = .none := ⟨rfl, rfl⟩

theorem lockInv_kept {s t : State} (hs : s.lockInv) (h : step s = .next t) : t.lockInv := by
  cases step_stands h with
  | moves hm =>
    obtain ⟨hagree, hnum⟩ := s.lockInv_iff.mp hs
    exact t.lockInv_iff.mpr ⟨hm.moves.agrees hagree, hm.contexts.numbered hnum⟩
  | rst inputs rest =>
    refine State.lockInv_of_free (by simp) (fun ch hch => ?_) rfl
    obtain ⟨dh, -, rfl⟩ := List.mem_map.mp hch
    exact dh.afterRst_idle
  | medium m rest hfree => exact lockInv_selectMedium hs hfree

/-- The driver is idle where it is out of the view and has called no broadcast. -/
theorem State.driverIdle_iff (s : State) :
    s.driverIdle ↔ s.lockView.DriverOut ∧ ∀ b ∈ s.bcasts, b.caller ≠ .driver := by
  constructor
  · rintro ⟨hl, hj, hb⟩
    refine ⟨⟨fun m hm => hl _ (List.mem_of_getElem? hm) rfl, fun c hw => ?_⟩, hb⟩
    obtain ⟨ch, hc, hcaller⟩ := State.writerOf_eq_some.mp hw
    exact hj ch (List.mem_of_getElem? hc) hcaller
  · rintro ⟨⟨hl, hw⟩, hb⟩
    refine ⟨fun l hm e => ?_, fun ch hm hcaller => ?_, hb⟩
    · obtain ⟨m, hm⟩ := List.mem_iff_getElem?.mp hm
      exact hl m (hm.trans (congrArg some e))
    · obtain ⟨c, hc⟩ := List.mem_iff_getElem?.mp hm
      exact hw c (State.writerOf_eq_some.mpr ⟨ch, hc, hcaller⟩)

theorem driverIdle_kept {s t : State} (hs : s.driverIdle) (h : step s = .next t) : t.driverIdle := by
  cases step_stands h with
  | moves hm =>
    obtain ⟨hout, hcallers⟩ := s.driverIdle_iff.mp hs
    exact t.driverIdle_iff.mpr ⟨hm.moves.driverOut hout, hm.contexts.callers hcallers⟩
  | rst inputs rest =>
    refine ⟨by simp, fun ch hch => ?_, by simp⟩
    obtain ⟨dh, -, rfl⟩ := List.mem_map.mp hch
    simp [dh.afterRst_idle, TxJob.caller]
  | medium => exact hs

/-- Settles O29: a step moves one agent from its place (`step_stands`), each of the four moves keeps the agreement
(`LockMoves.agrees`) and the driver out (`LockMoves.driverOut`); a reset frees all, and a medium changes under free locks. -/
theorem lockInvariantKept : Obligations.LockInvariantKept :=
  ⟨fun _ _ => lockInv_kept, fun _ _ => driverIdle_kept⟩

end Sys2Proof.Machine

/-! SUPPORT. The registry (spec/44_registry_broadcast.md R201, R202): the claim of a slot and its clearing as equations, and
the scan of a start. -/

namespace Sys2Proof.Machine

/-! ## Clearing -/

theorem exec_regClear {s : State} {c : ChanId} {ch : Chan} (hc : s.chans[c]? = some ch) :
    exec (.regClear c) s = .next (clearSlot c ch s) :=
  State.onChan_some hc _

/-- Settles O36: `REG.CLEAR` is `clearSlot`, whose two cases are the two clauses. -/
theorem clearOwnSlot : Obligations.ClearOwnSlot := by
  intro s c ch hc
  rw [exec_regClear hc]
  refine ⟨fun hn => ?_, fun i hi => ⟨(s.setReg i none).setChan c { ch with sesSlot := none }, _, ?_,
    State.setChan_get_self (s := s.setReg i none) hc _, othersKept_setChan (s.setReg i none) c _, ⟨rfl, rfl, rfl, rfl, rfl⟩,
    rfl, rfl, rfl, rfl, rfl, rfl⟩⟩
  · rw [clearSlot, hn]
  · rw [clearSlot, hi]

/-! ## Claiming -/

/-- A worker that carries on after a step of its own. -/
theorem workerOnly_resume {s : State} {c : ChanId} {ch : Chan} (hc : s.chans[c]? = some ch) (r : Return)
    (out : List Output) :
    WorkerOnly s { s.setChan c (ch.resume r) with out := out } c ch (ch.resume r) ∧ WorkerKept ch (ch.resume r) :=
  ⟨⟨State.setChan_get_self hc _, othersKept_setChan s c _, ⟨⟨rfl, rfl, rfl, rfl, rfl⟩, rfl, rfl, rfl, rfl⟩,
    receiverKept_of_placeless (ch.placeless_resume r), senderKept_of_placeless (ch.placeless_resume r), by simp⟩,
    by simp [WorkerKept]⟩

section Claim

variable {s : State} {c : ChanId} {ch : Chan} {i : SlotId} (hc : s.chans[c]? = some ch) (hn : ch.sesSlot = none)
include hc hn

/-- An empty slot is claimed. -/
theorem exec_regClaim_empty (hi : s.reg[i]? = some none) :
    exec (.regClaim c i) s =
      .next { (s.setReg i (some c)).setChan c (Chan.resume { ch with sesSlot := some i } (.result (.claimOk i))) with
        out := s.out ++ [.result (.worker c) (.claimOk i)] } := by
  have hset : ((s.setReg i (some c)).setChan c { ch with sesSlot := some i }).chans[c]? = _ :=
    State.setChan_get_self (s := s.setReg i (some c)) hc _
  refine (State.onChan_some hc _).trans ?_
  simp only [hn, hi, if_true]
  rw [State.ret_worker hset, State.setChan_setChan]
  rfl

/-- A live slot sends the worker on. -/
theorem exec_regClaim_busy {d : ChanId} (hi : s.reg[i]? = some (some d)) (hlt : i + 1 < s.reg.length) :
    exec (.regClaim c i) s = .next { s.setChan c (ch.resume .slotBusy) with out := s.out } := by
  refine (State.onChan_some hc _).trans ?_
  simp only [hn, hi, hlt, if_true]
  rw [State.resume_worker hc, Chan.resumeOutput_of_ne_released c ch (by simp), List.append_nil]

/-- After the last slot the start fails (R280). -/
theorem exec_regClaim_last {d : ChanId} (hi : s.reg[i]? = some (some d)) (hlast : i + 1 = s.reg.length) :
    exec (.regClaim c i) s =
      .next { s.setChan c (ch.resume (.result .startFail)) with out := s.out ++ [.result (.worker c) .startFail] } := by
  refine (State.onChan_some hc _).trans ?_
  simp only [hn, hi, if_true]
  rw [if_neg hlast.not_lt, State.raise_startFail, State.ret_worker hc]

end Claim

theorem exec_regClaim_refused {s : State} {c : ChanId} {ch : Chan} (hc : s.chans[c]? = some ch) {j : SlotId}
    (hj : ch.sesSlot = some j) (i : SlotId) : exec (.regClaim c i) s = .refused (.slotAlreadyHeld c) := by
  refine (State.onChan_some hc _).trans ?_
  simp [hj]

/-- One turn of a worker whose operation goes on. -/
theorem turns_succ {s t : State} {c : ChanId} {ch : Chan} {i : Instr} (hc : s.chans[c]? = some ch)
    (ho : workerOp s c ch = some i) (he : exec i s = .next t) (n : Nat) : turns c (n + 1) s = turns c n t := by
  have hturn : (workerTurn s c).carryOut = .next t := by
    simp [workerTurn, Plan.onChan, hc, ho, Plan.ofOption, Plan.carryOut, he]
  rw [turns, hturn]

/-- A worker at slot `i` of its start, with `n` live slots and then an empty one before it, claims the empty one. -/
theorem turns_claim {c : ChanId} (n : Nat) {s : State} {ch : Chan} {i : Nat} (hc : s.chans[c]? = some ch)
    (hctl : ch.ctl = .startClaim i) (hn : ch.sesSlot = none)
    (hlive : ∀ j, j < n → ∃ d, s.reg[i + j]? = some (some d)) (hempty : s.reg[i + n]? = some none) :
    ∃ t ch', turns c (n + 1) s = .next t ∧ t.chans[c]? = some ch' ∧ t.reg = s.reg.set (i + n) (some c) ∧
      ch'.sesSlot = some (i + n) ∧ ch'.ctl = .startEnter ∧
      t.out = s.out ++ [.result (.worker c) (.claimOk (i + n))] := by
  have ho : workerOp s c ch = some (.regClaim c i) := by rw [workerOp, hctl]
  induction n generalizing s ch i with
  | zero =>
    refine ⟨_, _, turns_succ hc ho (exec_regClaim_empty hc hn hempty) 0,
      State.setChan_get_self (s := s.setReg i (some c)) hc _, rfl, by simp, ?_, rfl⟩
    simp [Chan.resume, hctl]
  | succ n ih =>
    obtain ⟨d, hd⟩ := hlive 0 (Nat.succ_pos n)
    have hlt : i + 1 < s.reg.length := by
      have := (List.getElem?_eq_some_iff.mp hempty).1
      omega
    have hctl' : (ch.resume .slotBusy).ctl = .startClaim (i + 1) := by simp [Chan.resume, hctl]
    rw [turns_succ hc ho (exec_regClaim_busy hc hn hd hlt)]
    have hshift (j : Nat) : i + 1 + j = i + (j + 1) := by omega
    have h := ih (s := { s.setChan c (ch.resume .slotBusy) with out := s.out }) (State.setChan_get_self hc _) hctl'
      (by simpa using hn) (fun j hj => hshift j ▸ hlive (j + 1) (by omega)) (hshift n ▸ hempty)
      (by rw [workerOp, hctl'])
    rwa [hshift n] at h

/-- Settles O35: the four outcomes of `REG.CLAIM`, and the scan by induction on the live slots (`turns_claim`). -/
theorem claimScan : Obligations.ClaimScan := by
  refine ⟨fun s c ch i hc => ⟨fun hn hi => ?_, fun d hn hi hlt => ?_, fun d hn hi hlast => ?_,
    fun j hj => exec_regClaim_refused hc hj i⟩, fun s c ch pre post hc hctl hn hreg hpre => ?_⟩
  · obtain ⟨ctl, e⟩ := Chan.resume_eq { ch with sesSlot := some i } (.result (.claimOk i))
    have hexec := exec_regClaim_empty hc hn hi
    rw [e] at hexec
    refine ⟨_, _, hexec, State.setChan_get_self (s := s.setReg i (some c)) hc _,
      othersKept_setChan (s.setReg i (some c)) c _, ⟨rfl, rfl, rfl, rfl, rfl⟩, rfl, rfl, rfl, rfl, rfl, rfl,
      receiverKept_of_registers rfl, ⟨rfl, rfl, rfl, rfl, rfl, rfl, rfl, rfl, fun _ => rfl⟩, rfl, fun j hj => ?_⟩
    have hctl : Chan.ctl { ch with sesSlot := some i, ctl := ctl } = _ := congrArg Chan.ctl e.symm
    simpa [Chan.resume, hj] using hctl
  · obtain ⟨honly, hkept⟩ := workerOnly_resume hc .slotBusy s.out
    exact ⟨_, _, exec_regClaim_busy hc hn hi hlt, honly, hkept, fun hctl => ⟨rfl, by simp [Chan.resume, hctl]⟩⟩
  · obtain ⟨honly, hkept⟩ := workerOnly_resume hc (.result .startFail) (s.out ++ [.result (.worker c) .startFail])
    exact ⟨_, _, exec_regClaim_last hc hn hi hlast, honly, hkept, rfl, fun hctl => by simp [Chan.resume, hctl]⟩
  · have hlive (j : Nat) (hj : j < pre.length) : ∃ d, s.reg[0 + j]? = some (some d) := by
      obtain ⟨d, hd⟩ := Option.ne_none_iff_exists'.mp (hpre pre[j] (List.getElem_mem hj))
      exact ⟨d, by simp [hreg, List.getElem?_append_left hj, List.getElem?_eq_getElem hj, hd]⟩
    obtain ⟨t, ch', hturns, hc', hreg', hslot, hctl', hout⟩ :=
      turns_claim pre.length hc hctl hn hlive (by simp [hreg])
    rw [Nat.zero_add] at hreg' hslot hout
    exact ⟨t, ch', hturns, hc', by simp [hreg', hreg], hslot, hctl', hout⟩

end Sys2Proof.Machine

/-! SUPPORT. A broadcast (spec/44_registry_broadcast.md R203 to R209): how its context carries on with what each operation
it calls hands back, the frame it keeps, its own steps, and its run over an empty registry. -/

namespace Sys2Proof.Machine

/-! ## The context carries on -/

section Context

variable {s : State} {k : BcastId} {b : Bcast} (hb : s.findBcast k = some b) {c : ChanId}
include hb

theorem State.findBcast_updBcast_self {f : Bcast → Bcast} (hf : ∀ b, (f b).id = b.id := by intro; rfl) :
    (s.updBcast k f).findBcast k = some (f b) := by
  rw [State.findBcast_updBcast s k k hf, if_pos rfl, hb]
  rfl

/-- The lock of a session is acquired. -/
theorem State.resume_bcast_acquired (hst : b.stage = .acq c) :
    s.resume (.bcast k) .acquired = s.updBcast k fun b => { b with stage := b.afterAcq s.config c } := by
  obtain rfl := State.findBcast_id hb
  rw [State.resume_bcast hb]
  simp only [State.resumeBcast, hst]

/-- The encode has succeeded: the frame `TX.SEND` will emit is captured (R205). -/
theorem State.ret_bcast_encOk {ch : Chan} (hst : b.stage = .encode c) (hc : s.chans[c]? = some ch) :
    s.ret (.bcast k) .encOk =
      (s.output (.result (.bcast k) .encOk)).updBcast k fun b =>
        { b with frame := some (ch.txFrame s.config s.config.msgidEnvelope), stage := .send c } := by
  obtain rfl := State.findBcast_id hb
  have hc' : (s.output (.result (.bcast b.id) .encOk)).chans[c]? = some ch := hc
  rw [State.ret, State.resume_bcast (s := s.output _) hb]
  simp only [State.resumeBcast, hst, hc', Option.map_some]
  rfl

/-- The encode has failed: the lock is released next. -/
theorem State.ret_bcast_encFail (hst : b.stage = .encode c) (cause : EncCause) :
    s.ret (.bcast k) (.encFail cause) =
      (s.output (.result (.bcast k) (.encFail cause))).updBcast k fun b =>
        { b with stage := .rel c (.encFailed cause) } := by
  obtain rfl := State.findBcast_id hb
  rw [State.ret, State.resume_bcast (s := s.output _) hb]
  simp only [State.resumeBcast, hst]

/-- The call of a send, of either kind, has begun. -/
theorem State.resume_bcast_accepted (hst : b.stage = .send c ∨ b.stage = .raw c) :
    s.resume (.bcast k) .accepted = s.updBcast k fun b => { b with stage := .wait c } := by
  obtain rfl := State.findBcast_id hb
  rw [State.resume_bcast hb]
  rcases hst with hst | hst <;> simp only [State.resumeBcast, hst]

/-- A send has ended, well or badly. -/
theorem State.ret_bcast_sent (hst : b.stage = .wait c) {r : Result} (hr : r = .txOk ∨ r = .txFail) :
    s.ret (.bcast k) r =
      (s.output (.result (.bcast k) r)).updBcast k fun b => { b with stage := .rel c (.sent r) } := by
  obtain rfl := State.findBcast_id hb
  rw [State.ret, State.resume_bcast (s := s.output _) hb]
  rcases hr with rfl | rfl <;> simp only [State.resumeBcast, hst]

/-- The lock is released after a send: the fan-out goes on, and notes a failure (R206). -/
theorem State.resume_bcast_released_sent {r : Result} (hst : b.stage = .rel c (.sent r)) :
    s.resume (.bcast k) .released =
      s.updBcast k fun b => { b with stage := .visit, result := worstResult b.result r } := by
  obtain rfl := State.findBcast_id hb
  rw [State.resume_bcast hb]
  simp only [State.resumeBcast, hst]

/-- The lock is released after an encode that failed: the broadcast ends (R206). -/
theorem State.resume_bcast_released_encFailed {cause : EncCause} (hst : b.stage = .rel c (.encFailed cause)) :
    s.resume (.bcast k) .released = s.bcastReturn b (.encFail cause) := by
  rw [State.resume_bcast hb]
  simp only [State.resumeBcast, hst]

end Context

/-! ## The frame of a broadcast -/

/-- A frame that is kept stays as it is (R205): `step_stands` says what a step does to the contexts. -/
theorem frame_kept {s t : State} {k : BcastId} {b b' : Bcast} (h : step s = .next t) (hb : s.findBcast k = some b)
    (hst : ∀ c, b.stage ≠ .encode c) (hb' : t.findBcast k = some b') : b'.frame = b.frame := by
  cases step_stands h with
  | moves hm => exact hm.contexts.frame hb hst hb'
  | rst => cases hb'
  | medium => rw [Option.some_inj.mp (hb'.symm.trans hb)]

section Send

variable {s : State} {c : ChanId} {ch : Chan} {a : Agent} (hc : s.chans[c]? = some ch)
include hc

/-- The last byte of a `TX.SEND` (R161): its CRC. -/
theorem exec_sendReady_crc (hj : ch.txJob = .send a) (hp : ch.txPhase = .crc) :
    exec (.txSend c .ready) s = .next (s.wrote c a (crcFinal s.config ch.txCrc) ch.aborted) := by
  refine (State.onChan_some hc _).trans ?_
  simp [hj, hp, Chan.sendByte, State.wrote, Chan.aborted]

/-- The last byte of a write, of either kind, ends it. -/
theorem exec_lastByte {i : Instr}
    (h : (ch.txJob = .send a ∧ ch.txPhase = .crc ∧ i = .txSend c .ready) ∨
      (∃ x, ch.txJob = .raw a [x] ∧ i = .txRaw c .ready)) :
    ∃ x ch', exec i s = .next (((s.setChan c ch').emit c x).ret a .txOk) := by
  rcases h with ⟨hj, hp, rfl⟩ | ⟨x, hj, rfl⟩
  · exact ⟨_, _, exec_sendReady_crc hc hj hp⟩
  · exact ⟨_, _, exec_rawReady hc hj⟩

end Send

/-- Settles O39: no step changes a frame that is kept (`frame_kept`); on the way of a frame, each operation the broadcast
calls hands back what moves its context on. -/
theorem broadcastForwardsFrame : Obligations.BroadcastForwardsFrame := by
  refine ⟨fun s t k b b' f h hb hf hst hb' => (frame_kept h hb hst hb').trans hf, fun s k b c ch hb hc =>
    ⟨fun hst hh hw => ?send, fun f hst hne hh hw => ?raw, fun i hst h => ?last, fun i hst h => ?abort,
      fun hst hh hw hv hl => ?encode, fun f hst hf hfree => ?later, fun hst hf hfree => ?first⟩⟩
  case send =>
    refine ⟨_, exec_sendCall hc hh hw _, ?_⟩
    rw [State.resume_bcast_accepted (s := s.setChan c _) hb (.inl hst)]
    exact State.findBcast_updBcast_self (s := s.setChan c _) hb
  case raw =>
    rw [exec_rawCall hc hh hw, if_neg (by simpa using hne)]
    refine ⟨_, rfl, ?_⟩
    rw [State.resume_bcast_accepted (s := s.setChan c _) hb (.inr hst)]
    exact State.findBcast_updBcast_self (s := s.setChan c _) hb
  case last =>
    obtain ⟨x, ch', he⟩ := exec_lastByte hc h
    refine ⟨_, he, ?_⟩
    rw [State.ret_bcast_sent (s := (s.setChan c ch').emit c x) hb hst (.inl rfl)]
    exact State.findBcast_updBcast_self (s := ((s.setChan c ch').emit c x).output _) hb
  case abort =>
    refine ⟨_, exec_abort hc (a := .bcast k) (by simpa only [exists_and_right] using h), ?_⟩
    rw [State.raise_txFail hc, State.ret_bcast_sent (s := (s.signal .fail).setChan c _) hb hst (.inr rfl)]
    exact State.findBcast_updBcast_self (s := ((s.signal .fail).setChan c _).output _) hb
  case encode =>
    have hloaded := State.setChan_get_self hc (ch.loaded (envelope b.tag b.body))
    have hencode := exec_envEncode_ok hc hh hw (encodeFailure_none hv hl)
    rw [State.ret_bcast_encOk (s := s.setChan c _) hb hst hloaded] at hencode
    exact ⟨_, _, _, hencode, hloaded, State.findBcast_updBcast_self (s := (s.setChan c _).output _) hb, rfl, rfl,
      by simp [bcastOp, State.findBcast_id hb]⟩
  case later =>
    have hacq := exec_lockAcq_free hfree (.bcast k)
    rw [State.resume_bcast_acquired (s := s.setLock _ _) hb hst] at hacq
    exact ⟨_, _, hacq, State.findBcast_updBcast_self (s := s.setLock _ _) hb, hf,
      fun hr => by simp [bcastOp, Bcast.afterAcq, hf, hr, State.findBcast_id hb],
      fun hr => by simp [bcastOp, Bcast.afterAcq, hf, hr, State.findBcast_id hb]⟩
  case first =>
    have hacq := exec_lockAcq_free hfree (.bcast k)
    rw [State.resume_bcast_acquired (s := s.setLock _ _) hb hst] at hacq
    exact ⟨_, _, hacq, State.findBcast_updBcast_self (s := s.setLock _ _) hb,
      by simp [bcastOp, Bcast.afterAcq, hf, State.findBcast_id hb]⟩

/-! ## Its own steps -/

theorem bcastOnly_updBcast (s : State) (k : BcastId) {f : Bcast → Bcast}
    (hf : ∀ b, (f b).id = b.id := by intro; rfl) : BcastOnly s (s.updBcast k f) k :=
  ⟨⟨rfl, rfl, rfl, rfl, rfl⟩, rfl, rfl, fun j hj => by rw [State.findBcast_updBcast s k j hf, if_neg hj]⟩

section Return

variable {s : State} {b : Bcast}

theorem State.bcastReturn_chans_driver (h : b.caller = .driver) (r : Result) : (s.bcastReturn b r).chans = s.chans := by
  simp [State.bcastReturn, State.output, h]

/-- A handler goes on where it was blocked (R203). -/
theorem State.bcastReturn_chans_handler {c : ChanId} {ch : Chan} {h : HandlerKind} (hcaller : b.caller = .handler c)
    (hc : s.chans[c]? = some ch) (hctl : ch.ctl = .handlerBcast h b.id) (r : Result) :
    (s.bcastReturn b r).chans = s.chans.set c { ch with ctl := .handler h } := by
  simp [State.bcastReturn, State.output, State.updChan, hcaller, hc, hctl]

/-- A stopping worker is stopped (R230). -/
theorem State.bcastReturn_chans_stop {c : ChanId} {ch : Chan} (hcaller : b.caller = .stop c) (hc : s.chans[c]? = some ch)
    (hctl : ch.ctl = .finalBcast b.id) (r : Result) :
    (s.bcastReturn b r).chans = s.chans.set c { ch with sesPhase := .stopped, ctl := .run } := by
  simp [State.bcastReturn, State.output, State.updChan, hcaller, hc, hctl]

end Return

/-- The return of a broadcast to its caller, whoever it is. -/
theorem bcastReturns (s : State) (b : Bcast) (r : Result) : BcastReturns s (s.bcastReturn b r) b r := by
  have hfind (j : BcastId) := s.findBcast_bcastReturn b r j
  obtain ⟨chans, e⟩ := s.bcastReturn_eq b r
  refine ⟨⟨?_, ?_, ?_, fun j hj => (hfind j).trans (if_neg hj)⟩, (hfind b.id).trans (if_pos rfl), ?_, ?_⟩
  · rw [e]
    exact ⟨rfl, rfl, rfl, rfl, rfl⟩
  · rw [e]
  · rw [e]
  · rw [e]
  · cases hcaller : b.caller with
    | driver => exact State.bcastReturn_chans_driver hcaller r
    | handler c => exact fun ch h hc hctl => State.bcastReturn_chans_handler hcaller hc hctl r
    | stop c => exact fun ch hc hctl => State.bcastReturn_chans_stop hcaller hc hctl r

theorem State.bcastReturn_locks (s : State) (b : Bcast) (r : Result) : (s.bcastReturn b r).locks = s.locks := by
  obtain ⟨chans, e⟩ := s.bcastReturn_eq b r
  rw [e]

/-- A context after the visit of slot `i`, which holds `r` (R204, R205). -/
def Bcast.visited (b : Bcast) (i : SlotId) (r : Option (Option ChanId)) : Bcast :=
  { b with
    rest := b.rest.filter (· != i)
    stage :=
      match r with
      | some (some c) => .acq c
      | _ => .visit }

section Steps

variable {s : State} {k : BcastId} {b : Bcast} (hb : s.findBcast k = some b)
include hb

theorem exec_bcastVisit {i : SlotId} (hi : i ∈ b.rest) :
    exec (.bcastSend (.visit k i)) s = .next (s.updBcast k fun b => b.visited i s.reg[i]?) := by
  change bcastVisit k i s = _
  rw [bcastVisit, hb]
  exact if_pos hi

theorem exec_bcastCopy {c : ChanId} {ch : Chan} {f : List Byte} (hst : b.stage = .copy c) (hf : b.frame = some f)
    (hc : s.chans[c]? = some ch) (hh : s.holds (.bcast k) c = true) (hw : s.writePending (s.mediumOf c) = false) :
    exec (.bcastSend (.copy k)) s =
      .next ((s.setChan c (ch.loaded (f.drop 4).dropLast)).updBcast k fun b => { b with stage := .send c }) := by
  change bcastCopy k s = _
  simp only [bcastCopy, hb, hst]
  rw [State.onTransport_some hc hh hw, hf]
  rfl

theorem exec_bcastFinish (hrest : b.rest = []) (hst : b.stage = .visit) :
    exec (.bcastSend (.finish k)) s = .next (s.bcastReturn b b.result) := by
  change bcastFinish k s = _
  rw [bcastFinish, hb]
  exact if_pos ⟨hrest, hst⟩

end Steps

theorem exec_bcastCall_handler {s : State} {c : ChanId} {ch : Chan} {h : HandlerKind} (hc : s.chans[c]? = some ch)
    (hctl : ch.ctl = .handler h) (tag : Nat) (body : List Byte) :
    exec (.bcastSend (.call (.handler c) tag body)) s =
      .next ((s.setChan c { ch with ctl := .handlerBcast h s.nextBc }).beginBcast (.handler c) tag body) := by
  refine (State.onChan_some hc _).trans ?_
  simp only [hctl]

/-- Settles O38: each step of the listing by its equation, with what it leaves alone (`bcastOnly_updBcast`,
`bcastReturns`). -/
theorem broadcastSteps : Obligations.BroadcastSteps := by
  refine fun s => ⟨fun tag body => ⟨_, rfl, rfl, rfl, rfl, rfl⟩,
    fun c ch h tag body hc hctl => exec_bcastCall_handler hc hctl tag body, fun k b i hb hi => ?visit,
    fun k b c ch f hb hst hf hlen hc hh hw => ?copy, fun k b c ch hb hst hc hh hw hfail => ?encode,
    fun k b c after hb hst hl hw => ?release, fun k b hb hrest hst => ?finish⟩
  case visit =>
    have hvisited := State.findBcast_updBcast_self hb (f := fun b => b.visited i s.reg[i]?)
    exact ⟨_, exec_bcastVisit hb hi, rfl, rfl, rfl, bcastOnly_updBcast s k, fun c hr => by rw [hvisited, hr]; rfl,
      fun hr => by rw [hvisited, hr]; rfl⟩
  case copy =>
    have hp : (f.drop 4).dropLast.length ≤ lenMax := by
      rw [List.length_dropLast, List.length_drop, lenMax]
      omega
    exact ⟨_, _, exec_bcastCopy hb hst hf hc hh hw, State.setChan_get_self hc _, othersKept_setChan s c _, rfl, rfl,
      bcastOnly_updBcast (s.setChan c _) k, rfl, rfl, ch.loaded_txLen hp,
      State.findBcast_updBcast_self (s := s.setChan c _) hb⟩
  case encode =>
    obtain ⟨cause, hcause⟩ : ∃ cause, encodeFailure s.config b.tag b.body = some cause := by
      by_cases hv : variantOf s.config b.tag = none
      · exact ⟨_, encodeFailure_unknownTag hv _⟩
      · exact ⟨_, encodeFailure_tooLong hv (hfail.resolve_left hv)⟩
    refine ⟨_, cause, exec_envEncode_failed hc hh hw hcause, ?_⟩
    rw [State.raise_encFail, State.ret_bcast_encFail (s := s.signal .fail) hb hst]
    exact ⟨rfl, rfl, bcastOnly_updBcast ((s.signal .fail).output _) k, List.append_assoc ..,
      State.findBcast_updBcast_self (s := (s.signal .fail).output _) hb⟩
  case release =>
    refine ⟨_, exec_lockRel_holder hl hw, State.resume_locks .., ?_, ?_⟩
    · rintro r rfl
      rw [State.resume_bcast_released_sent (s := s.setLock _ _) hb hst]
      exact ⟨rfl, rfl, bcastOnly_updBcast (s.setLock _ _) k, State.findBcast_updBcast_self (s := s.setLock _ _) hb⟩
    · rintro cause rfl
      rw [State.resume_bcast_released_encFailed (s := s.setLock _ _) hb hst]
      exact bcastReturns (s.setLock _ _) b _
  case finish =>
    exact ⟨_, exec_bcastFinish hb hrest hst, State.bcastReturn_locks .., bcastReturns s b _⟩

/-! ## No live session -/

section Newest

variable {s : State} {old : List Bcast} {b : Bcast} (hbs : s.bcasts = old ++ [b]) (hold : ∀ b' ∈ old, b'.id ≠ b.id)
include hbs hold

theorem State.findBcast_newest : s.findBcast b.id = some b := by
  have hnone : old.find? (fun b' => b'.id == b.id) = none := List.find?_eq_none.mpr (by simpa using hold)
  simp [State.findBcast, hbs, List.find?_append, hnone]

theorem State.updBcast_newest (f : Bcast → Bcast) : s.updBcast b.id f = { s with bcasts := old ++ [f b] } := by
  have hmap : (old.map fun b' => if b'.id = b.id then f b' else b') = old :=
    (List.map_congr_left fun b' hb' => if_neg (hold b' hb')).trans (List.map_id' old)
  simp [State.updBcast, hbs, hmap]

theorem State.bcastReturn_newest (r : Result) : (s.bcastReturn b r).bcasts = old := by
  obtain ⟨chans, e⟩ := s.bcastReturn_eq b r
  have hfilter : old.filter (fun b' => b'.id != b.id) = old := List.filter_eq_self.mpr (by simpa using hold)
  simp [e, hbs, hfilter]

end Newest

/-- The visits of the slots of a list, all empty, take them from those left to visit, and do nothing else (R208). -/
theorem visitAll_empty (order : List SlotId) {s : State} {old : List Bcast} {b : Bcast} (hbs : s.bcasts = old ++ [b])
    (hold : ∀ b' ∈ old, b'.id ≠ b.id) (hreg : ∀ r ∈ s.reg, r = none) (hst : b.stage = .visit)
    (hrest : ∀ i ∈ order, i ∈ b.rest) (hnodup : order.Nodup) :
    visitAll b.id order s = .next { s with bcasts := old ++ [{ b with rest := b.rest.filter (· ∉ order) }] } := by
  induction order generalizing s b with
  | nil => simp [visitAll, ← hbs]
  | cons i order ih =>
    obtain ⟨hi, hnodup⟩ := List.nodup_cons.mp hnodup
    have hvisited : b.visited i s.reg[i]? = { b with rest := b.rest.filter (· != i) } := by
      cases hr : s.reg[i]? with
      | none => simp [Bcast.visited, hst]
      | some r => simp [Bcast.visited, hst, hreg r (List.mem_of_getElem? hr)]
    have hvisit := exec_bcastVisit (State.findBcast_newest hbs hold) (hrest i List.mem_cons_self)
    rw [State.updBcast_newest hbs hold, hvisited] at hvisit
    rw [visitAll, hvisit]
    have hrest' (j : SlotId) (hj : j ∈ order) : j ∈ b.rest.filter (· != i) := by
      have hne : j ≠ i := fun e => hi (e ▸ hj)
      exact List.mem_filter.mpr ⟨hrest j (List.mem_cons_of_mem i hj), by simpa using hne⟩
    refine (ih (s := { s with bcasts := old ++ [{ b with rest := b.rest.filter (· != i) }] }) rfl hold hreg hst hrest'
      hnodup).trans ?_
    simp [List.filter_filter, Bool.and_comm, bne, beq_eq_decide]

/-- A caller whose broadcast begins over an empty registry: every slot is visited, and the broadcast returns `TX_OK`
(R208). What the caller does then is in `hret`. -/
theorem emptyBroadcast {s : State} {i : Instr} {caller : BcastCaller} {tag : Nat} {body : List Byte} {order : List SlotId}
    {chans chans' : List Chan} (hreg : ∀ r ∈ s.reg, r = none) (hids : ∀ b ∈ s.bcasts, b.id < s.nextBc)
    (hnodup : order.Nodup) (hall : ∀ i, i ∈ order ↔ i < s.reg.length)
    (hcall : exec i s = .next (State.beginBcast { s with chans := chans } caller tag body))
    (hret : ∀ (t : State) (b : Bcast), t.chans = chans → b.id = s.nextBc → b.caller = caller →
      (t.bcastReturn b .txOk).chans = chans') :
    ∃ t0 t1 t, exec i s = .next t0 ∧ visitAll s.nextBc order t0 = .next t1 ∧
      exec (.bcastSend (.finish s.nextBc)) t1 = .next t ∧ t.out = s.out ++ [.bcastDone caller .txOk] ∧
      t.chans = chans' ∧ t.reg = s.reg ∧ t.locks = s.locks ∧ t.bcasts = s.bcasts := by
  have hold (b : Bcast) (hb : b ∈ s.bcasts) : b.id ≠ s.nextBc := (hids b hb).ne
  have hnone : (newBcast s caller tag body).rest.filter (· ∉ order) = [] := by
    simp [newBcast, List.filter_eq_nil_iff, hall]
  have hvisits := visitAll_empty order (s := State.beginBcast { s with chans := chans } caller tag body)
    (b := newBcast s caller tag body) rfl hold hreg rfl (fun i hi => List.mem_range.mpr ((hall i).mp hi)) hnodup
  rw [hnone] at hvisits
  have hfinish := exec_bcastFinish (State.findBcast_newest (b := { newBcast s caller tag body with rest := [] })
    (s := { State.beginBcast { s with chans := chans } caller tag body with
      bcasts := s.bcasts ++ [{ newBcast s caller tag body with rest := [] }] }) rfl hold) rfl rfl
  obtain ⟨⟨-, hreg', -⟩, -, hout, -⟩ := bcastReturns _ _ _
  exact ⟨_, _, _, hcall, hvisits, hfinish, hout, hret _ _ rfl rfl rfl, hreg', State.bcastReturn_locks ..,
    State.bcastReturn_newest rfl hold _⟩

theorem exec_sesStop_finalBcast {s : State} {c : ChanId} {ch : Chan} (hc : s.chans[c]? = some ch)
    (hp : ch.sesPhase = .finalBcast) :
    exec (.sesStop c) s = .next ((s.setChan c { ch with ctl := .finalBcast s.nextBc }).beginBcast (.stop c)
      (finalDiag s.config c).1 (finalDiag s.config c).2) := by
  have hcall : execSesStop c s = bcastCall (.stop c) (finalDiag s.config c).1 (finalDiag s.config c).2 s := by
    rw [execSesStop, State.onChan_some hc, hp]
  exact hcall.trans (State.onChan_some hc _)

/-- Settles O40: the run is `emptyBroadcast` after the call of each caller; a handler is back where it was, and the
stopping worker is stopped. -/
theorem broadcastWithoutSession : Obligations.BroadcastWithoutSession := by
  intro s tag body order hreg hids hnodup hall
  refine ⟨emptyBroadcast hreg hids hnodup hall rfl fun t b hchans _ hcaller => ?driver, fun c ch h hc hctl =>
    emptyBroadcast hreg hids hnodup hall (exec_bcastCall_handler hc hctl tag body) fun t b hchans hid hcaller => ?handler,
    fun c ch hc hp =>
      emptyBroadcast hreg hids hnodup hall (exec_sesStop_finalBcast hc hp) fun t b hchans hid hcaller => ?stop⟩
  case driver => rw [State.bcastReturn_chans_driver hcaller, hchans]
  case handler =>
    have hself : t.chans[c]? = some { ch with ctl := .handlerBcast h s.nextBc } := by
      rw [hchans]
      exact State.setChan_get_self hc _
    rw [State.bcastReturn_chans_handler hcaller hself (by rw [hid]), hchans]
    obtain ⟨hl, hget⟩ := List.getElem?_eq_some_iff.mp hc
    have hsame : { ch with ctl := .handler h } = s.chans[c] := by rw [← hctl, hget]
    rw [List.set_set, hsame, List.set_getElem_self]
  case stop =>
    have hself : t.chans[c]? = some { ch with ctl := .finalBcast s.nextBc } := by
      rw [hchans]
      exact State.setChan_get_self hc _
    rw [State.bcastReturn_chans_stop hcaller hself (by rw [hid]), hchans, List.set_set]

end Sys2Proof.Machine

/-! SUPPORT. The worker's own steps as equations (spec/45_session_worker.md R221 to R230), and what a step of the worker
alone leaves as it was. -/

namespace Sys2Proof.Machine

/-! ## What the worker's registers are not -/

/-- A channel without its worker's registers and place (R32 to R35). -/
def Chan.workerless (ch : Chan) : Chan :=
  { ch with sesPhase := .stopped, sesSlot := none, sesTermReq := false, sesLastStatus := 0, ctl := .run }

theorem othersKept_of_chans {s t : State} {c : ChanId} {ch : Chan} (h : t.chans = s.chans.set c ch) :
    OthersKept s t c := by
  rw [OthersKept, h]
  exact othersKept_setChan s c ch

/-- A step that writes registers of the worker of `c`, and puts something out, is a step of that worker alone. -/
theorem workerOnly_setChan {s : State} {c : ChanId} {ch ch' : Chan} (hc : s.chans[c]? = some ch) (out : List Output)
    (h : ch'.workerless = ch.workerless := by rfl) : WorkerOnly s { s.setChan c ch' with out := out } c ch ch' :=
  ⟨State.setChan_get_self hc _, othersKept_setChan s c _, ⟨⟨rfl, rfl, rfl, rfl, rfl⟩, rfl, rfl, rfl, rfl⟩,
    receiverKept_of_registers (congrArg Chan.registers h :),
    senderKept_of_placeless (a := ch.workerless) (b := ch'.workerless) (congrArg Chan.placeless h),
    (congrArg Chan.rxs h :)⟩

/-- The end of a dispatch, after the outputs `outs` (R226). -/
theorem dispatchEnds_setChan {s : State} {c : ChanId} {ch : Chan} (hc : s.chans[c]? = some ch) (outs : List Output) :
    DispatchEnds s { s.setChan c ch.endDispatch with out := s.out ++ outs } c ch ch.endDispatch outs :=
  ⟨workerOnly_setChan hc _, rfl, rfl, rfl, rfl, rfl, rfl⟩

/-- A step that ends a dispatch and puts nothing out (R226, R227). -/
theorem dispatchEnds_silently {s : State} {c : ChanId} {ch : Chan} {i : Instr} (hc : s.chans[c]? = some ch)
    (he : exec i s = .next (s.setChan c ch.endDispatch)) :
    ∃ t ch', exec i s = .next t ∧ DispatchEnds s t c ch ch' [] := by
  have hends := dispatchEnds_setChan hc []
  rw [List.append_nil] at hends
  exact ⟨_, _, he, hends⟩

/-! ## The steps -/

section Steps

variable {s : State} {c : ChanId} {ch : Chan} (hc : s.chans[c]? = some ch)
include hc

theorem exec_startEvent (hp : ch.sesPhase = .stopped) (hr : ch.ctl = .run) :
    exec (.sesStart c .event) s = .next (s.setChan c { ch with ctl := .startAcq }) :=
  (State.onChan_some hc _).trans (if_pos ⟨hp, hr⟩)

theorem exec_startEvent_ignored (hp : ch.sesPhase ≠ .stopped) : exec (.sesStart c .event) s = .next s :=
  (State.onChan_some hc _).trans (if_neg fun ⟨h, _⟩ => hp h)

theorem exec_startInit :
    exec (.sesStart c .init) s =
      .next (s.setChan c { ch with rxState := .waitStart, txPhase := .idle, txSeq := 0, ctl := .startRel }) :=
  State.onChan_some hc _

theorem exec_startArm :
    exec (.sesStart c .arm) s = .next (s.setChan c { ch with sesTermReq := false, ctl := .startClaim 0 }) :=
  State.onChan_some hc _

theorem exec_startEnter :
    exec (.sesStart c .enter) s =
      .next (s.setChan c { ch with sesLastStatus := s.now, sesPhase := .checkTerm, ctl := .run }) :=
  State.onChan_some hc _

theorem exec_checkTerm :
    exec (.sesCheckTerm c) s =
      .next (s.setChan c { ch with sesPhase := if ch.sesTermReq then .deregister else .checkStatus }) :=
  State.onChan_some hc _

theorem exec_statusCompare_due (h : s.cfg.statusPeriod.toNat < (s.now - ch.sesLastStatus).toNat) :
    exec (.sesStatus c .compare) s = .next (statusCall c ch s) :=
  (State.onChan_some hc _).trans (if_pos (decide_eq_true h))

theorem exec_statusCompare_notDue (h : (s.now - ch.sesLastStatus).toNat ≤ s.cfg.statusPeriod.toNat) :
    exec (.sesStatus c .compare) s = .next (s.setChan c { ch with sesPhase := .receive }) :=
  (State.onChan_some hc _).trans (if_neg (by simpa [statusDue] using h))

theorem exec_statusDue : exec (.sesStatus c .due) s = .next (statusCall c ch s) := State.onChan_some hc _

theorem exec_statusDone :
    exec (.sesStatus c .handlerDone) s =
      .next (s.setChan c { ch with sesLastStatus := s.now, sesPhase := .receive, ctl := .run }) :=
  State.onChan_some hc _

theorem exec_receiveCall (hr : ch.ctl = .run) :
    exec (.sesReceive c) s = .next (s.setChan c { ch with ctl := .recvTop }) := by
  refine (State.onChan_some hc _).trans ?_
  rw [hr]

theorem exec_receiveDone {r : Result} (hr : ch.ctl = .recvDone r) :
    exec (.sesReceive c) s = .next (s.setChan c { ch with sesPhase := phaseAfterReceive r, ctl := .run }) := by
  refine (State.onChan_some hc _).trans ?_
  rw [hr]

theorem exec_pass1_found {v : Variant} {off : Nat} {w : BitVec 3}
    (hd : discriminate s.config ch.rxPayload = some (v, off, w)) :
    exec (.sesDispatch c .pass1) s = .next (s.setChan c { ch with ctl := .matched v off w }) := by
  refine (State.onChan_some hc _).trans ?_
  simp only [hd]

theorem exec_pass1_none (hd : discriminate s.config ch.rxPayload = none) :
    exec (.sesDispatch c .pass1) s = .next (s.setChan c ch.endDispatch) := by
  refine (State.onChan_some hc _).trans ?_
  simp only [hd]

theorem exec_dispatchDone : exec (.sesDispatch c .handlerDone) s = .next (s.setChan c ch.endDispatch) :=
  State.onChan_some hc _

theorem exec_reply {h : HandlerKind} (hctl : ch.ctl = .handler h) (tag : Nat) (body : List Byte) :
    exec (.sesSend c tag body) s = .next (s.setChan c { ch with ctl := .replyAcq h tag body }) := by
  refine (State.onChan_some hc _).trans ?_
  rw [hctl]

theorem exec_reply_ignored (hctl : ∀ h, ch.ctl ≠ .handler h) (tag : Nat) (body : List Byte) :
    exec (.sesSend c tag body) s = .next s := by
  refine (State.onChan_some hc _).trans ?_
  split
  · exact absurd ‹_› (hctl _)
  · rfl

/-- `SES.STOP` in `DEREGISTER`: a slot still held is cleared, and the phase is written (R230, log entry 34). -/
theorem exec_sesStop_deregister (hp : ch.sesPhase = .deregister) :
    ∃ reg, exec (.sesStop c) s =
        .next (State.setChan { s with reg := reg } c { ch with sesSlot := none, sesPhase := .finalBcast }) ∧
      (∀ i, ch.sesSlot = some i → reg = s.reg.set i none) ∧ (ch.sesSlot = none → reg = s.reg) := by
  have hexec : exec (.sesStop c) s =
      .next ((clearSlot c ch s).setChan c { ch with sesSlot := none, sesPhase := .finalBcast }) := by
    refine (State.onChan_some hc _).trans ?_
    simp only [hp]
    rw [State.updChan_some (clearSlot_get hc)]
  rw [hexec]
  cases hslot : ch.sesSlot with
  | none => exact ⟨s.reg, by rw [clearSlot, hslot], by simp, fun _ => rfl⟩
  | some i => exact ⟨s.reg.set i none, by rw [clearSlot, hslot]; simp [State.setChan, State.setReg], by simp, by simp⟩

end Steps

/-! ## The obligations of single steps -/

/-- Settles O41: each step by its equation. -/
theorem startSteps : Obligations.StartSteps := fun s c ch hc =>
  ⟨exec_startEvent_ignored hc, exec_startEvent hc,
    ⟨_, _, exec_startInit hc, State.setChan_get_self hc _, othersKept_setChan s c _,
      ⟨⟨rfl, rfl, rfl, rfl, rfl⟩, rfl, rfl, rfl, rfl⟩, rfl, rfl, rfl, rfl, ⟨rfl, rfl, rfl, rfl, rfl⟩, fun _ => rfl,
      fun _ => rfl, rfl, rfl, rfl, rfl, rfl, ⟨rfl, rfl, rfl, rfl⟩, rfl⟩,
    ⟨_, _, exec_startArm hc, workerOnly_setChan hc s.out, rfl, rfl, rfl, rfl, rfl, rfl⟩,
    ⟨_, _, exec_startEnter hc, workerOnly_setChan hc s.out, rfl, rfl, rfl, rfl, rfl, rfl⟩⟩

/-- Settles O44: the phase is the flag's. -/
theorem checkTermStep : Obligations.CheckTermStep := fun s _ _ hc =>
  ⟨_, _, exec_checkTerm hc, workerOnly_setChan hc s.out, rfl, fun ht => if_pos ht, fun ht => if_neg (by simp [ht]), rfl,
    rfl, rfl, rfl⟩

/-- Settles O45: the comparison and `StatusDue` call the handler by the same step (`statusCall`). -/
theorem statusSteps : Obligations.StatusSteps := by
  refine fun s c ch hc => ⟨fun x hx => ?_, fun hle => ?_, ?_⟩
  · have hcall : exec (.sesStatus c x) s = .next (statusCall c ch s) := by
      rcases hx with ⟨rfl, hlt⟩ | rfl
      · exact exec_statusCompare_due hc hlt
      · exact exec_statusDue hc
    exact ⟨_, _, hcall, workerOnly_setChan hc _, ⟨rfl, rfl, rfl, rfl⟩, rfl, rfl⟩
  · exact ⟨_, _, exec_statusCompare_notDue hc hle, workerOnly_setChan hc s.out, rfl, rfl, rfl, rfl, rfl, rfl⟩
  · exact ⟨_, _, exec_statusDone hc, workerOnly_setChan hc s.out, rfl, rfl, rfl, rfl, rfl, rfl⟩

/-- Settles O46: each step by its equation; the matched variant's row is what `workerOp` selects at that place. -/
theorem receiveAndDispatchSteps : Obligations.ReceiveAndDispatchSteps := by
  refine ⟨fun s c ch hc => ⟨fun hr => ?_, fun r hr => ?_⟩, fun s c ch hc => ⟨fun v off w hd => ?_, ?_⟩⟩
  · exact ⟨_, _, exec_receiveCall hc hr, workerOnly_setChan hc s.out, ⟨rfl, rfl, rfl, rfl⟩, rfl, rfl⟩
  · refine ⟨_, _, exec_receiveDone hc hr, workerOnly_setChan hc s.out, rfl, rfl, rfl, rfl, rfl, ?_, ?_, ?_⟩
    · rintro seq msgid len payload rfl
      rfl
    · rintro rfl
      rfl
    · rintro cause rfl
      rfl
  · exact ⟨_, _, exec_pass1_found hc hd, workerOnly_setChan hc s.out, ⟨rfl, rfl, rfl, rfl⟩, rfl, rfl⟩
  · exact dispatchEnds_silently hc (exec_dispatchDone hc)

/-- Settles O48: the two steps of `SES.STOP` by their equations, and the two returns of a broadcast whose caller is the
stopping worker (`State.bcastReturn_chans_stop`). -/
theorem stopSteps : Obligations.StopSteps := by
  intro s c ch hc
  have hstopped {t : State} (ht : t.chans = s.chans.set c { ch with sesPhase := .stopped, ctl := .run }) :
      t.chans[c]? = some { ch with sesPhase := .stopped, ctl := .run } := by
    rw [ht]
    exact State.setChan_get_self hc _
  refine ⟨fun hp => ?deregister, fun hp => ?call, fun k b hb hcaller hrest hst hctl => ?finish,
    fun k b d cause hb hcaller hst hctl hl hw => ?release⟩
  case deregister =>
    obtain ⟨reg, hexec, hsome, hnone⟩ := exec_sesStop_deregister hc hp
    exact ⟨_, _, hexec, State.setChan_get_self (s := { s with reg := reg }) hc _,
      othersKept_setChan { s with reg := reg } c _, ⟨rfl, rfl, rfl, rfl, rfl⟩, hsome, hnone, rfl, rfl, rfl, rfl⟩
  case call =>
    exact ⟨_, _, _, exec_sesStop_finalBcast hc hp, State.setChan_get_self hc _, othersKept_setChan s c _,
      ⟨rfl, rfl, rfl, rfl, rfl⟩, rfl, rfl, rfl, rfl, rfl, rfl, rfl, rfl, rfl⟩
  case finish =>
    obtain rfl := State.findBcast_id hb
    have hchans := State.bcastReturn_chans_stop hcaller hc hctl b.result
    exact ⟨_, _, exec_bcastFinish hb hrest hst, hstopped hchans, othersKept_of_chans hchans, State.bcastReturn_locks ..,
      bcastReturns s b _, rfl⟩
  case release =>
    obtain rfl := State.findBcast_id hb
    have hrel := exec_lockRel_holder hl hw
    rw [State.resume_bcast_released_encFailed (s := s.setLock _ _) hb hst] at hrel
    have hchans := State.bcastReturn_chans_stop (s := s.setLock (s.mediumOf d) .free) hcaller hc hctl (.encFail cause)
    exact ⟨_, _, hrel, hstopped hchans, othersKept_of_chans hchans, State.bcastReturn_locks ..,
      bcastReturns (s.setLock _ _) b _, rfl⟩

end Sys2Proof.Machine

/-! SUPPORT. The dispatch table (spec/45_session_worker.md R227, R228): its three kinds of row as equations. -/

namespace Sys2Proof.Machine

/-- A result returned to a worker whose registers are written next. -/
theorem State.ret_worker_updChan {s : State} {c : ChanId} {ch : Chan} (hc : s.chans[c]? = some ch) (r : Result)
    {f : Chan → Chan} {ch' : Chan} (hf : f (ch.resume (.result r)) = ch') :
    (s.ret (.worker c) r).updChan c f = { s.setChan c ch' with out := s.out ++ [.result (.worker c) r] } := by
  rw [State.updChan_some (State.ret_worker_get hc r), State.ret_worker hc, hf]
  simp [State.setChan]

theorem Chan.endDispatch_resume (ch : Chan) (r : Return) : (ch.resume r).endDispatch = ch.endDispatch := by
  obtain ⟨ctl, e⟩ := ch.resume_eq r
  rw [e]
  rfl

theorem workerBody_wire {k : Config} {v : Variant} {w : BitVec 3} {ch : Chan} (hw : w = 2) :
    workerBody k v w ch = decodeBody k v ch.rxPayload :=
  if_pos hw

/-- Pass 2 at the worker fails for a wire type other than 2, and for a body that does not decode (R180). -/
theorem workerBody_none {k : Config} {v : Variant} {w : BitVec 3} {ch : Chan}
    (h : w ≠ 2 ∨ decodeBody k v ch.rxPayload = none) : workerBody k v w ch = none := by
  by_cases hw : w = 2
  · rw [workerBody_wire hw]
    exact h.resolve_left fun hne => hne hw
  · exact if_neg hw

section Rows

variable {s : State} {c : ChanId} {ch : Chan} (hc : s.chans[c]? = some ch)
include hc

theorem dropSilently_eq : dropSilently c s = .next (s.setChan c ch.endDispatch) := State.onChan_some hc _

theorem dropBadBody_eq :
    dropBadBody c s =
      { s.setChan c ch.endDispatch with out := s.out ++ [.signal .fail, .result (.worker c) .bodyFail] } := by
  rw [dropBadBody, State.raise_bodyFail,
    State.ret_worker_updChan (s := s.signal .fail) hc .bodyFail (ch.endDispatch_resume _)]
  simp [State.setChan]

theorem routeToHandler_ok {v : Variant} {w : BitVec 3} {x : BodyVal} (hb : workerBody s.config v w ch = some x) :
    routeToHandler v c w s =
      .next { s.setChan c { ch with ctl := .handler (.dispatch v) } with
        out := s.out ++ [.result (.worker c) (.bodyOk v x), .dispatch c v x] } := by
  obtain ⟨ctl, e⟩ := ch.resume_eq (.result (.bodyOk v x))
  refine (State.onChan_some hc _).trans ?_
  simp only [hb]
  rw [State.updChan_some (s := (s.ret _ _).output _) (State.ret_worker_get hc _), State.ret_worker hc, e]
  simp [State.setChan, State.output]

theorem decodeAndDiscard_ok {v : Variant} {w : BitVec 3} {x : BodyVal} (hb : workerBody s.config v w ch = some x) :
    decodeAndDiscard v c w s =
      .next { s.setChan c ch.endDispatch with out := s.out ++ [.result (.worker c) (.bodyOk v x)] } := by
  refine (State.onChan_some hc _).trans ?_
  simp only [hb]
  rw [State.ret_worker_updChan hc _ (ch.endDispatch_resume _)]

theorem routeToHandler_badBody {v : Variant} {w : BitVec 3} (hb : workerBody s.config v w ch = none) :
    routeToHandler v c w s = .next (dropBadBody c s) := by
  refine (State.onChan_some hc _).trans ?_
  simp only [hb]

theorem decodeAndDiscard_badBody {v : Variant} {w : BitVec 3} (hb : workerBody s.config v w ch = none) :
    decodeAndDiscard v c w s = .next (dropBadBody c s) := by
  refine (State.onChan_some hc _).trans ?_
  simp only [hb]

end Rows

/-- A row whose pass 2 fails. -/
theorem dispatchEnds_badBody {s : State} {c : ChanId} {ch : Chan} {i : Instr} (hc : s.chans[c]? = some ch)
    (he : exec i s = .next (dropBadBody c s)) :
    ∃ t ch', exec i s = .next t ∧ DispatchEnds s t c ch ch' [.signal .fail, .result (.worker c) .bodyFail] :=
  ⟨_, _, he.trans (congrArg _ (dropBadBody_eq hc)), dispatchEnds_setChan hc _⟩

/-- Settles O34: every row drops silently, routes to a handler, or decodes and discards, each by its equations. -/
theorem dispatchTable : Obligations.DispatchTable := by
  refine fun s c ch w hc => ⟨fun hd => dispatchEnds_silently hc (exec_pass1_none hc hd), fun i hi => ?outbound,
    fun hoff => ?flagOff, fun v i hi => ?inbound, fun x hw hx => ?log, fun hbad => ?badLog⟩
  case outbound =>
    have hrow : exec i s = dropSilently c s := by
      simp only [List.mem_cons, List.not_mem_nil, or_false] at hi
      rcases hi with rfl | rfl | rfl | rfl <;> rfl
    exact dispatchEnds_silently hc (hrow.trans (dropSilently_eq hc))
  case flagOff =>
    have hrow : exec (.envMemoryDumpRequest c w) s = dropSilently c s := if_neg (by simp [hoff])
    exact dispatchEnds_silently hc (hrow.trans (dropSilently_eq hc))
  case inbound =>
    have hrow : exec i s = routeToHandler v c w s := by
      rcases hi with hi | ⟨rfl, rfl, hon⟩
      · simp only [List.mem_cons, List.not_mem_nil, or_false, Prod.mk.injEq] at hi
        rcases hi with ⟨rfl, rfl⟩ | ⟨rfl, rfl⟩ | ⟨rfl, rfl⟩ | ⟨rfl, rfl⟩ <;> rfl
      · exact if_pos hon
    refine ⟨fun x hw hx => ?_, fun hbad =>
      dispatchEnds_badBody hc (hrow.trans (routeToHandler_badBody hc (workerBody_none hbad)))⟩
    exact ⟨_, _, hrow.trans (routeToHandler_ok hc ((workerBody_wire hw).trans hx)), workerOnly_setChan hc _,
      ⟨rfl, rfl, rfl, rfl⟩, rfl, rfl⟩
  case log =>
    exact ⟨_, _, decodeAndDiscard_ok hc ((workerBody_wire hw).trans hx), dispatchEnds_setChan hc _⟩
  case badLog => exact dispatchEnds_badBody hc (decodeAndDiscard_badBody hc (workerBody_none hbad))

end Sys2Proof.Machine

/-! SUPPORT. A worker's turn goes on (spec/45_session_worker.md R220): at every place an operation of a worker has its
channel, its lock, an idle medium where it sends, and no slot where it claims one. -/

namespace Sys2Proof.Machine

/-- The answer is a next state. -/
def GoesOn (a : Answer) : Prop := ∃ t, a = .next t

theorem GoesOn.next (t : State) : GoesOn (.next t) := ⟨t, rfl⟩

/-! ## What the invariants give a worker -/

/-- On the medium of an agent that holds its lock and does not wait for a write, none is pending (R165). -/
theorem State.lockInv.writePending_of_held {s : State} (h : s.lockInv) {c : ChanId} {ch : Chan}
    (hc : s.chans[c]? = some ch) (hheld : ch.ctl.holdsLock = true) (hwait : ∀ k, ch.ctl ≠ .replyWait k) :
    s.writePending (s.mediumOf c) = false := by
  have hlock := h.worker c ch hc hheld
  refine List.any_eq_false.mpr fun (dh, d) hd hpending => ?_
  have hdh : s.chans[d]? = some dh := List.mem_zipIdx_iff_getElem?.mp hd
  simp only [Bool.and_eq_true, beq_iff_eq, bne_iff_ne] at hpending
  obtain ⟨hm, hjob⟩ := hpending
  obtain ⟨a, ha⟩ := Option.ne_none_iff_exists'.mp (mt TxJob.caller_eq_none.mp hjob)
  have hd := h.job d dh a hdh ha
  rw [hm, hlock] at hd
  obtain rfl : Agent.worker c = a := by simpa using hd
  obtain ⟨rfl, k, hk⟩ := h.jobWorker d dh c hdh ha
  obtain rfl : ch = dh := Option.some_inj.mp (hc.symm.trans hdh)
  exact hwait k hk

/-- The medium of a channel has a lock (R39). -/
theorem State.sizeInv.lock_of_medium {s : State} (h : s.sizeInv) {c : ChanId} (hc : c < s.chans.length) :
    ∃ l, s.locks[s.mediumOf c]? = some l := by
  obtain ⟨hchans, -, -, hmedium, hlocks⟩ := h
  have hcm : c < s.medium.length := by rwa [hmedium, ← hchans]
  have hm : s.mediumOf c ∈ s.medium := by
    rw [State.mediumOf, List.getD_eq_getElem _ _ hcm]
    exact List.getElem_mem hcm
  exact ⟨_, List.getElem?_eq_getElem (hlocks _ hm)⟩

/-- A worker that is looking for a slot holds none. -/
theorem Chan.sesInv.noSlot_of_startClaim {ch : Chan} (h : ch.sesInv) {i : SlotId} (hctl : ch.ctl = .startClaim i) :
    ch.sesSlot = none := by
  have ha := h.allows
  obtain ⟨-, -, hstopped, -, -⟩ := h
  rw [hctl] at ha
  exact hstopped (eq_of_beq ha) (by simp [hctl])

/-! ## The operations -/

theorem goesOn_lockAcq {s : State} {m : MediumId} {l : Lock} (hl : s.locks[m]? = some l) (a : Agent) :
    GoesOn (exec (.lockAcq a m) s) := by
  cases l with
  | free => exact ⟨_, exec_lockAcq_free hl a⟩
  | held b => exact ⟨_, exec_lockAcq_held hl a⟩

section Ops

variable {s : State} {c : ChanId} {ch : Chan} (hc : s.chans[c]? = some ch)
include hc

theorem GoesOn.onChan {f : Chan → Answer} (h : GoesOn (f ch)) : GoesOn (s.onChan c f) := by
  rwa [State.onChan_some hc]

theorem goesOn_regClaim (hn : ch.sesSlot = none) (i : SlotId) : GoesOn (exec (.regClaim c i) s) := by
  refine GoesOn.onChan hc ?_
  rw [if_pos hn]
  split
  · exact .next _
  · split <;> exact .next _
  · exact .next _

theorem goesOn_rxReceive : GoesOn (exec (.rxReceive c) s) := by
  refine GoesOn.onChan hc ?_
  split <;> exact .next _

theorem goesOn_statusCompare : GoesOn (exec (.sesStatus c .compare) s) := by
  refine GoesOn.onChan hc ?_
  dsimp only
  split <;> exact .next _

theorem goesOn_sesReceive : GoesOn (exec (.sesReceive c) s) := by
  refine GoesOn.onChan hc ?_
  split <;> exact .next _

theorem goesOn_pass1 : GoesOn (exec (.sesDispatch c .pass1) s) := by
  refine GoesOn.onChan hc ?_
  dsimp only
  split <;> exact .next _

theorem goesOn_sesStop : GoesOn (exec (.sesStop c) s) := by
  refine GoesOn.onChan hc ?_
  split
  · exact .next _
  · exact ⟨_, State.onChan_some hc _⟩
  · exact .next _

theorem goesOn_dropSilently : GoesOn (dropSilently c s) := ⟨_, dropSilently_eq hc⟩

theorem goesOn_routeToHandler (v : Variant) (w : BitVec 3) : GoesOn (routeToHandler v c w s) :=
  GoesOn.onChan hc (.next _)

/-- The row of every variant. -/
theorem goesOn_ofVariant (v : Variant) (w : BitVec 3) : GoesOn (exec (Instr.ofVariant v c w) s) := by
  cases v with
  | status => exact goesOn_dropSilently hc
  | statusText => exact goesOn_dropSilently hc
  | timeReference => exact goesOn_routeToHandler hc .timeReference w
  | command => exact goesOn_routeToHandler hc .command w
  | paramRequest => exact goesOn_routeToHandler hc .paramRequest w
  | paramSet => exact goesOn_routeToHandler hc .paramSet w
  | paramValue => exact goesOn_dropSilently hc
  | logRequest => exact GoesOn.onChan hc (.next _)
  | memoryDumpRequest =>
    change GoesOn (execEnvMemoryDumpRequest c w s)
    unfold execEnvMemoryDumpRequest
    split
    · exact goesOn_routeToHandler hc .memoryDumpRequest w
    · exact goesOn_dropSilently hc
  | memoryDumpPage => exact goesOn_dropSilently hc

/-- The operation a worker's phase selects. -/
theorem goesOn_phaseOp {i : Instr} (ho : phaseOp c ch = some i) : GoesOn (exec i s) := by
  unfold phaseOp at ho
  split at ho
  case h_1 => cases ho
  case h_2 => cases ho; exact ⟨_, exec_checkTerm hc⟩
  case h_3 => cases ho; exact goesOn_statusCompare hc
  case h_4 => cases ho; exact goesOn_sesReceive hc
  case h_5 => cases ho; exact goesOn_pass1 hc
  case h_6 =>
    split at ho
    · cases ho; exact ⟨_, exec_regClear hc⟩
    · cases ho; exact goesOn_sesStop hc
  case h_7 => cases ho; exact goesOn_sesStop hc

end Ops

section Places

variable {s : State} {c : ChanId} {ch : Chan} (hc : s.chans[c]? = some ch) (hl : s.lockInv)
include hc hl

theorem goesOn_lockRel (hheld : ch.ctl.holdsLock = true) (hwait : ∀ k, ch.ctl ≠ .replyWait k) :
    GoesOn (exec (.lockRel (.worker c) (s.mediumOf c)) s) :=
  ⟨_, exec_lockRel_holder (hl.worker c ch hc hheld) (hl.writePending_of_held hc hheld hwait)⟩

theorem holds_of_place (hheld : ch.ctl.holdsLock = true) : s.holds (.worker c) c = true :=
  beq_iff_eq.mpr (hl.worker c ch hc hheld)

theorem goesOn_envEncode {h : HandlerKind} {tag : Nat} {body : List Byte} (hctl : ch.ctl = .replyEncode h tag body) :
    GoesOn (exec (.envEncode (.worker c) c tag body) s) := by
  have hheld : ch.ctl.holdsLock = true := by rw [hctl]; rfl
  have hh := holds_of_place hc hl hheld
  have hw := hl.writePending_of_held hc hheld (by simp [hctl])
  cases hf : encodeFailure s.config tag body with
  | some cause => exact ⟨_, exec_envEncode_failed hc hh hw hf⟩
  | none => exact ⟨_, exec_envEncode_ok hc hh hw hf⟩

theorem goesOn_sendCall {h : HandlerKind} (hctl : ch.ctl = .replySend h) (msgid : Byte) :
    GoesOn (exec (.txSend c (.call (.worker c) msgid)) s) := by
  have hheld : ch.ctl.holdsLock = true := by rw [hctl]; rfl
  exact ⟨_, exec_sendCall hc (holds_of_place hc hl hheld) (hl.writePending_of_held hc hheld (by simp [hctl])) msgid⟩

/-- The operation a worker's place selects. -/
theorem goesOn_workerOp (hs : s.sesInv) (hz : s.sizeInv) {i : Instr} (ho : workerOp s c ch = some i) :
    GoesOn (exec i s) := by
  obtain ⟨l, hlock⟩ := hz.lock_of_medium (List.getElem?_eq_some_iff.mp hc).1
  unfold workerOp at ho
  split at ho
  case h_1 => exact goesOn_phaseOp hc ho
  case h_2 => cases ho; exact goesOn_lockAcq hlock _
  case h_3 => cases ho; exact ⟨_, exec_startInit hc⟩
  case h_4 hctl => cases ho; exact goesOn_lockRel hc hl (by rw [hctl]; rfl) (by simp [hctl])
  case h_5 => cases ho; exact ⟨_, exec_startArm hc⟩
  case h_6 hctl => cases ho; exact goesOn_regClaim hc ((hs.get hc).noSlot_of_startClaim hctl) _
  case h_7 => cases ho; exact ⟨_, exec_startEnter hc⟩
  case h_8 => cases ho; exact goesOn_rxReceive hc
  case h_9 => cases ho
  case h_10 => cases ho; exact goesOn_sesReceive hc
  case h_11 => cases ho; exact goesOn_ofVariant hc _ _
  case h_12 => cases ho
  case h_13 => cases ho; exact goesOn_lockAcq hlock _
  case h_14 hctl => cases ho; exact goesOn_envEncode hc hl hctl
  case h_15 hctl => cases ho; exact goesOn_sendCall hc hl hctl _
  case h_16 => cases ho
  case h_17 hctl => cases ho; exact goesOn_lockRel hc hl (by rw [hctl]; rfl) (by simp [hctl])
  case h_18 => cases ho
  case h_19 => cases ho

end Places

/-- Settles O50: a worker that waits has no operation and stays as it is; the operation its place selects goes on
(`goesOn_workerOp`). -/
theorem workerTurnGoesOn : Obligations.WorkerTurnGoesOn := by
  intro s c hl hs hz hlt
  have hc := List.getElem?_eq_getElem hlt
  have hturn : workerTurn s c = Plan.ofOption s (workerOp s c s.chans[c]) := by simp only [workerTurn, Plan.onChan, hc]
  rw [hturn]
  cases ho : workerOp s c s.chans[c] with
  | none => exact ⟨s, rfl⟩
  | some i => exact goesOn_workerOp hc hl hs hz ho

end Sys2Proof.Machine

/-! SUPPORT. A worker inside a composite operation (spec/45_session_worker.md R221, R229): the states between its first
step and its last differ from the one before in the worker's channel, the lock of its medium and the outputs alone. -/

namespace Sys2Proof.Machine

/-- The state `s` while the worker of `c` is inside a composite operation: its channel's registers are `ch`, the lock of
its medium is `l`, and `outs` have been put out since. -/
def State.during (s : State) (c : ChanId) (ch : Chan) (l : Lock) (outs : List Output) : State :=
  { (s.setLock (s.mediumOf c) l).setChan c ch with out := s.out ++ outs }

section During

variable {s : State} {c : ChanId} {ch : Chan} {l : Lock} {outs : List Output}

@[simp] theorem State.during_config : (s.during c ch l outs).config = s.config := rfl
@[simp] theorem State.during_out : (s.during c ch l outs).out = s.out ++ outs := rfl
@[simp] theorem State.during_mediumOf (d : ChanId) : (s.during c ch l outs).mediumOf d = s.mediumOf d := rfl

theorem State.during_setChan (ch' : Chan) : (s.during c ch l outs).setChan c ch' = s.during c ch' l outs := by
  simp [State.during, State.setChan]

theorem State.during_setLock (l' : Lock) :
    (s.during c ch l outs).setLock (s.mediumOf c) l' = s.during c ch l' outs := by
  simp [State.during, State.setChan, State.setLock]

theorem State.during_append (more : List Output) :
    { s.during c ch l outs with out := s.out ++ outs ++ more } = s.during c ch l (outs ++ more) := by
  rw [State.during, State.during, List.append_assoc]

theorem State.during_output (o : Output) : (s.during c ch l outs).output o = s.during c ch l (outs ++ [o]) :=
  State.during_append [o]

theorem State.during_signal (level : Level) :
    (s.during c ch l outs).signal level = s.during c ch l (outs ++ [.signal level]) :=
  State.during_output _

theorem State.during_emit (d : ChanId) (b : Byte) :
    (s.during c ch l outs).emit d b = s.during c ch l (outs ++ [.emit d b]) :=
  State.during_output _

/-- With the lock free, as it was, the channel and the outputs are all that differs. -/
theorem State.during_free (hfree : s.locks[s.mediumOf c]? = some .free) :
    s.during c ch .free outs = { s.setChan c ch with out := s.out ++ outs } := by
  obtain ⟨hm, hget⟩ := List.getElem?_eq_some_iff.mp hfree
  have hset : s.locks.set (s.mediumOf c) .free = s.locks := by rw [← hget, List.set_getElem_self]
  simp [State.during, State.setChan, State.setLock, hset]

/-- Before the lock is taken and with nothing put out. -/
theorem State.setChan_eq_during (hfree : s.locks[s.mediumOf c]? = some .free) :
    s.setChan c ch = s.during c ch .free [] := by
  rw [State.during_free hfree, List.append_nil]
  rfl

/-- No write is pending on a medium where none was, if none is on the channel that is written. -/
theorem State.writePending_setChan {m : MediumId} (hj : ch.txJob = .none) (hw : s.writePending m = false) :
    (s.setChan c ch).writePending m = false := by
  refine List.any_eq_false.mpr fun (dh, d) hd => ?_
  have hdh : (s.setChan c ch).chans[d]? = some dh := List.mem_zipIdx_iff_getElem?.mp hd
  by_cases hdc : d = c
  · subst hdc
    have hlt : d < s.chans.length := by simpa using (List.getElem?_eq_some_iff.mp hdh).1
    obtain rfl : ch = dh := by simpa [hlt] using hdh
    simp [hj]
  · rw [State.setChan_get_ne s hdc] at hdh
    exact List.any_eq_false.mp hw (dh, d) (List.mem_zipIdx_iff_getElem?.mpr hdh)

theorem State.during_writePending (hj : ch.txJob = .none) (hw : s.writePending (s.mediumOf c) = false) :
    (s.during c ch l outs).writePending (s.mediumOf c) = false :=
  State.writePending_setChan (s := s) hj hw

theorem State.during_lock {l0 : Lock} (hl : s.locks[s.mediumOf c]? = some l0) :
    (s.during c ch l outs).locks[s.mediumOf c]? = some l := by
  have hm := (List.getElem?_eq_some_iff.mp hl).1
  simp [State.during, hm]

theorem State.during_holds {l0 : Lock} (hl : s.locks[s.mediumOf c]? = some l0) (a : Agent) :
    (s.during c ch (.held a) outs).holds a c = true :=
  beq_iff_eq.mpr (State.during_lock hl)

section Worker

variable {ch0 : Chan} (hc : s.chans[c]? = some ch0)
include hc

theorem State.during_get : (s.during c ch l outs).chans[c]? = some ch :=
  State.setChan_get_self (s := s.setLock _ _) hc ch

/-- The worker carries on with what an operation hands back. -/
theorem State.during_resume (r : Return) :
    (s.during c ch l outs).resume (.worker c) r = s.during c (ch.resume r) l (outs ++ ch.resumeOutput c r) := by
  rw [State.resume_worker (State.during_get hc), State.during_setChan, State.during_out, State.during_append]

theorem State.during_ret (r : Result) :
    (s.during c ch l outs).ret (.worker c) r =
      s.during c (ch.resume (.result r)) l (outs ++ [.result (.worker c) r]) := by
  rw [State.ret_worker (State.during_get hc), State.during_setChan, State.during_out, State.during_append]

/-- A turn of the worker that writes its channel alone. -/
theorem turns_during_write {ch' : Chan} {i : Instr} (ho : workerOp s c ch = some i)
    (he : exec i (s.during c ch l outs) = .next ((s.during c ch l outs).setChan c ch')) (n : Nat) :
    turns c (n + 1) (s.during c ch l outs) = turns c n (s.during c ch' l outs) := by
  rw [turns_succ (State.during_get hc) ho he, State.during_setChan]

/-- Its turn at a `LOCK.ACQ`: the lock is free. -/
theorem turns_during_lockAcq (hfree : s.locks[s.mediumOf c]? = some .free)
    (ho : workerOp s c ch = some (.lockAcq (.worker c) (s.mediumOf c))) (n : Nat) :
    turns c (n + 1) (s.during c ch .free outs) =
      turns c n (s.during c (ch.resume .acquired) (.held (.worker c)) outs) := by
  refine turns_succ (State.during_get hc) ho ?_ n
  rw [exec_lockAcq_free (State.during_lock hfree), State.during_setLock, State.during_resume hc,
    Chan.resumeOutput_of_ne_released c ch (by simp), List.append_nil]

/-- Its turn at a `LOCK.REL`. -/
theorem turns_during_lockRel (hfree : s.locks[s.mediumOf c]? = some .free)
    (hw : s.writePending (s.mediumOf c) = false) (hj : ch.txJob = .none)
    (ho : workerOp s c ch = some (.lockRel (.worker c) (s.mediumOf c))) (n : Nat) :
    turns c (n + 1) (s.during c ch (.held (.worker c)) outs) =
      turns c n (s.during c (ch.resume .released) .free (outs ++ ch.resumeOutput c .released)) := by
  refine turns_succ (State.during_get hc) ho ?_ n
  rw [exec_lockRel_holder (State.during_lock hfree) (State.during_writePending hj hw), State.during_setLock,
    State.during_resume hc]

end Worker

end During

end Sys2Proof.Machine

/-! SUPPORT. A whole `SES.START` (spec/45_session_worker.md R221, spec/44_registry_broadcast.md R201). -/

namespace Sys2Proof.Machine

/-- A channel whose session starts, once its transport is as new (R221). -/
def Chan.renewed (ch : Chan) (ctl : WorkerCtl) : Chan :=
  { ch with rxState := .waitStart, txPhase := .idle, txSeq := 0, ctl := ctl }

/-- The same, with the flag cleared, at slot `i`. -/
def Chan.claiming (ch : Chan) (i : SlotId) : Chan := { ch.renewed (.startClaim i) with sesTermReq := false }

/-- A start up to its first claim: the lock is taken, the transport is as new, the lock is free again, the flag is
cleared. -/
theorem turns_startOpened {s : State} {c : ChanId} {ch : Chan} (hc : s.chans[c]? = some ch)
    (hfree : s.locks[s.mediumOf c]? = some .free) (hw : s.writePending (s.mediumOf c) = false) (n : Nat) :
    turns c (n + 4) (s.setChan c { ch with ctl := .startAcq }) = turns c n (s.setChan c (ch.claiming 0)) := by
  have hj : ch.txJob = .none := State.txJob_of_writePending hc hw
  rw [State.setChan_eq_during hfree, State.setChan_eq_during hfree]
  calc turns c (n + 4) (s.during c { ch with ctl := .startAcq } .free [])
    _ = turns c (n + 3) (s.during c { ch with ctl := .startInit } (.held (.worker c)) []) :=
      turns_during_lockAcq hc hfree rfl (n + 3)
    _ = turns c (n + 2) (s.during c (ch.renewed .startRel) (.held (.worker c)) []) :=
      turns_during_write hc rfl (exec_startInit (State.during_get hc)) (n + 2)
    _ = turns c (n + 1) (s.during c (ch.renewed .startArm) .free []) :=
      turns_during_lockRel (ch := ch.renewed .startRel) hc hfree hw hj rfl (n + 1)
    _ = turns c n (s.during c (ch.claiming 0) .free []) :=
      turns_during_write hc rfl (exec_startArm (State.during_get hc)) n

/-- A worker at slot `i` of its start passes `n` live slots, the last of the registry not among them. -/
theorem turns_skip {c : ChanId} (n : Nat) {s : State} {ch : Chan} {i : Nat} (hc : s.chans[c]? = some ch)
    (hctl : ch.ctl = .startClaim i) (hn : ch.sesSlot = none)
    (hlive : ∀ j, j < n → ∃ d, s.reg[i + j]? = some (some d)) (hlt : i + n < s.reg.length) (k : Nat) :
    turns c (k + n) s = turns c k (s.setChan c { ch with ctl := .startClaim (i + n) }) := by
  induction n generalizing s ch i with
  | zero =>
    have hsame : { ch with ctl := .startClaim (i + 0) } = ch := by rw [Nat.add_zero, ← hctl]
    rw [hsame, State.setChan_self hc, Nat.add_zero]
  | succ n ih =>
    obtain ⟨d, hd : s.reg[i]? = some (some d)⟩ := hlive 0 (Nat.succ_pos n)
    have ho : workerOp s c ch = some (.regClaim c i) := by rw [workerOp, hctl]
    have hshift (j : Nat) : i + 1 + j = i + (j + 1) := by omega
    have hbusy := exec_regClaim_busy hc hn hd (by omega : i + 1 < s.reg.length)
    have hmoved : ch.resume .slotBusy = { ch with ctl := .startClaim (i + 1) } := by simp [Chan.resume, hctl]
    rw [hmoved] at hbusy
    rw [← Nat.add_assoc, turns_succ hc ho hbusy]
    refine (ih (ch := { ch with ctl := .startClaim (i + 1) }) (State.setChan_get_self hc _) rfl hn
      (fun j hj => hshift j ▸ hlive (j + 1) (by omega)) (by simpa [hshift] using hlt)).trans ?_
    rw [hshift n]
    exact congrArg (turns c k) (State.setChan_setChan s c _ _)

/-- The state `s` once the worker of `c`, with the registers `ch` then, has claimed slot `i`. -/
def State.claimed (s : State) (c : ChanId) (i : SlotId) (ch : Chan) : State :=
  { (s.setReg i (some c)).setChan c ch with out := s.out ++ [.result (.worker c) (.claimOk i)] }

theorem State.claimed_setChan (s : State) (c : ChanId) (i : SlotId) (ch ch' : Chan) :
    (s.claimed c i ch).setChan c ch' = s.claimed c i ch' := by
  simp [State.claimed, State.setChan]

theorem State.setChan_claimed (s : State) (c : ChanId) (i : SlotId) (ch ch' : Chan) :
    (s.setChan c ch).claimed c i ch' = s.claimed c i ch' := by
  simp [State.claimed, State.setChan, State.setReg]

theorem State.claimed_get {s : State} {c : ChanId} {ch : Chan} (hc : s.chans[c]? = some ch) (i : SlotId) (ch' : Chan) :
    (s.claimed c i ch').chans[c]? = some ch' :=
  State.setChan_get_self (s := s.setReg i (some c)) hc ch'

/-- A channel whose worker has entered its loop at the time `now`, with slot `i` (R221). -/
def Chan.entered (ch : Chan) (i : SlotId) (now : Time) : Chan :=
  { ch with sesSlot := some i, sesLastStatus := now, sesPhase := .checkTerm, ctl := .run }

/-- A start at an empty slot `i`: the slot is claimed and the loop is entered. -/
theorem turns_claimed {s : State} {c : ChanId} {ch : Chan} {i : SlotId} (hc : s.chans[c]? = some ch)
    (hctl : ch.ctl = .startClaim i) (hn : ch.sesSlot = none) (hempty : s.reg[i]? = some none) :
    turns c 2 s = .next (s.claimed c i (ch.entered i s.now)) := by
  have hclaim := exec_regClaim_empty hc hn hempty
  have hmoved : Chan.resume { ch with sesSlot := some i } (.result (.claimOk i)) =
      { ch with sesSlot := some i, ctl := .startEnter } := by
    simp [Chan.resume, hctl]
  rw [hmoved] at hclaim
  have hget := State.claimed_get hc i { ch with sesSlot := some i, ctl := .startEnter }
  have henter := exec_startEnter hget
  rw [State.claimed_setChan] at henter
  calc turns c 2 s
    _ = turns c 1 (s.claimed c i { ch with sesSlot := some i, ctl := .startEnter }) :=
      turns_succ hc (by rw [workerOp, hctl]) hclaim 1
    _ = .next (s.claimed c i (ch.entered i s.now)) := turns_succ hget rfl henter 0

/-- Settles O42: the start up to its first claim (`turns_startOpened`), the live slots (`turns_skip`), and the claim of
the empty one with the entry of the loop (`turns_claimed`). -/
theorem startRuns : Obligations.StartRuns := by
  intro s c ch pre post hc hp hr hn hfree hw hreg hpre
  have hlive (j : Nat) (hj : j < pre.length) : ∃ d, s.reg[0 + j]? = some (some d) := by
    obtain ⟨d, hd⟩ := Option.ne_none_iff_exists'.mp (hpre pre[j] (List.getElem_mem hj))
    exact ⟨d, by simp [hreg, List.getElem?_append_left hj, List.getElem?_eq_getElem hj, hd]⟩
  have hempty : s.reg[pre.length]? = some none := by simp [hreg]
  have hget (i : SlotId) : (s.setChan c (ch.claiming i)).chans[c]? = some (ch.claiming i) := State.setChan_get_self hc _
  have hskip := turns_skip pre.length (hget 0) rfl hn hlive (by simp [hreg]) 2
  rw [State.setChan_setChan, Nat.zero_add] at hskip
  have hclaimed := turns_claimed (hget pre.length) rfl hn hempty
  rw [State.setChan_claimed] at hclaimed
  refine ⟨_, _, (ch.claiming pre.length).entered pre.length s.now, exec_startEvent hc hp hr, ?turns,
    State.claimed_get hc _ _, othersKept_setChan (s.setReg pre.length (some c)) c _, ⟨rfl, rfl, rfl, rfl, rfl⟩, rfl,
    rfl, by simp [State.claimed, hreg], rfl, rfl, rfl, rfl, rfl, rfl, rfl, rfl, ⟨rfl, rfl, rfl, rfl, rfl⟩, fun _ => rfl,
    fun _ => rfl, rfl⟩
  calc turns c (pre.length + 6) (s.setChan c { ch with ctl := .startAcq })
    _ = turns c (pre.length + 2) (s.setChan c (ch.claiming 0)) := turns_startOpened hc hfree hw _
    _ = turns c 2 (s.setChan c (ch.claiming pre.length)) := Nat.add_comm 2 _ ▸ hskip
    _ = .next (s.claimed c pre.length ((ch.claiming pre.length).entered pre.length s.now)) := hclaimed

end Sys2Proof.Machine

/-! SUPPORT. A reply from its command to the handler's result (spec/45_session_worker.md R229). -/

namespace Sys2Proof.Machine

/-! ## The worker waits for its send -/

/-- The worker of `c` waits for its `TX.SEND`, or has its result and releases the lock next (R229). -/
def Chan.AwaitsSend (ch : Chan) (c : ChanId) (h : HandlerKind) : Prop :=
  (ch.txJob = .send (.worker c) ∧ ch.ctl = .replyWait h) ∨ (ch.txJob = .none ∧ ch.ctl = .replyRel h .txOk)

/-- A byte of its send: it waits on, or the byte was the last. -/
theorem sendReady_awaits {s u : State} {c : ChanId} {ch0 ch : Chan} {l : Lock} {outs : List Output} {h : HandlerKind}
    (hc : s.chans[c]? = some ch0) (ha : ch.AwaitsSend c h)
    (he : exec (.txSend c .ready) (s.during c ch l outs) = .next u) :
    ∃ ch' outs', u = s.during c ch' l outs' ∧ ch'.AwaitsSend c h := by
  have hready := (State.onChan_some (State.during_get hc) _).symm.trans he
  rcases ha with ⟨hj, hctl⟩ | ⟨hj, hctl⟩
  · simp only [hj] at hready
    split at hready
    · cases hready
    · split at hready
      · cases hready
        exact ⟨ch, outs, rfl, .inl ⟨hj, hctl⟩⟩
      · rename_i b ch' hb
        obtain ⟨hctl', hjob⟩ := Chan.sendByte_job hb
        rw [State.during_setChan, State.during_emit] at hready
        split at hready
        · rename_i hn
          cases hready
          exact ⟨_, _, State.during_ret hc _, .inr ⟨by simpa using hn, by simp [Chan.resume, hctl', hctl]⟩⟩
        · rename_i hn
          cases hready
          exact ⟨ch', _, rfl, .inl ⟨(hjob hn).trans hj, hctl'.trans hctl⟩⟩
  · simp only [hj] at hready
    cases hready
    exact ⟨ch, outs, rfl, .inr ⟨hj, hctl⟩⟩

theorem pump_awaits {s u : State} {c : ChanId} {ch0 : Chan} {l : Lock} {h : HandlerKind} (hc : s.chans[c]? = some ch0)
    (n : Nat) {ch : Chan} {outs : List Output} (ha : ch.AwaitsSend c h)
    (hp : pump c n (s.during c ch l outs) = .next u) :
    ∃ ch' outs', u = s.during c ch' l outs' ∧ ch'.AwaitsSend c h := by
  induction n generalizing ch outs with
  | zero =>
    cases hp
    exact ⟨ch, outs, rfl, ha⟩
  | succ n ih =>
    rw [pump] at hp
    split at hp
    · rename_i t he
      obtain ⟨ch', outs', rfl, ha'⟩ := sendReady_awaits hc ha he
      exact ih ha' hp
    · cases hp
    · cases hp

/-! ## The steps of a reply -/

section Reply

variable {s : State} {c : ChanId} {ch : Chan} (hc : s.chans[c]? = some ch) (hfree : s.locks[s.mediumOf c]? = some .free)
  (h : HandlerKind) {tag : Nat} {body : List Byte}
include hc hfree

/-- The lock is taken. -/
theorem turns_replyAcquired (n : Nat) :
    turns c (n + 1) (s.setChan c { ch with ctl := .replyAcq h tag body }) =
      turns c n (s.during c { ch with ctl := .replyEncode h tag body } (.held (.worker c)) []) := by
  rw [State.setChan_eq_during hfree]
  exact turns_during_lockAcq hc hfree rfl n

variable (hw : s.writePending (s.mediumOf c) = false)
include hw

/-- The envelope is encoded. -/
theorem turns_replyEncoded (hf : encodeFailure s.config tag body = none) (n : Nat) :
    turns c (n + 1) (s.during c { ch with ctl := .replyEncode h tag body } (.held (.worker c)) []) =
      turns c n (s.during c { ch.loaded (envelope tag body) with ctl := .replySend h } (.held (.worker c))
        [.result (.worker c) .encOk]) := by
  have hencode := exec_envEncode_ok
    (State.during_get hc (ch := { ch with ctl := .replyEncode h tag body }) (outs := []))
    (State.during_holds hfree (.worker c)) (State.during_writePending (State.txJob_of_writePending hc hw :) hw) hf
  rw [State.during_setChan, State.during_ret hc] at hencode
  exact turns_succ (State.during_get hc) rfl hencode n

/-- The encode fails. -/
theorem turns_replyEncodeFailed {cause : EncCause} (hf : encodeFailure s.config tag body = some cause) (n : Nat) :
    turns c (n + 1) (s.during c { ch with ctl := .replyEncode h tag body } (.held (.worker c)) []) =
      turns c n (s.during c { ch with ctl := .replyRel h (.encFail cause) } (.held (.worker c))
        [.signal .fail, .result (.worker c) (.encFail cause)]) := by
  have hencode := exec_envEncode_failed
    (State.during_get hc (ch := { ch with ctl := .replyEncode h tag body }) (outs := []))
    (State.during_holds hfree (.worker c)) (State.during_writePending (State.txJob_of_writePending hc hw :) hw) hf
  rw [State.raise_encFail, State.during_signal, State.during_ret hc] at hencode
  exact turns_succ (State.during_get hc) rfl hencode n

/-- The lock is free again, and the handler has the result `r`. -/
theorem turns_replyReleased {dh : Chan} {r : Result} (hctl : dh.ctl = .replyRel h r) (hj : dh.txJob = .none)
    (outs : List Output) :
    turns c 1 (s.during c dh (.held (.worker c)) outs) =
      .next { s.setChan c { dh with ctl := .handler h } with out := s.out ++ (outs ++ [.replyDone c r]) } := by
  have hmoved : dh.resume .released = { dh with ctl := .handler h } := by simp [Chan.resume, hctl]
  have hout : dh.resumeOutput c .released = [.replyDone c r] := by simp [Chan.resumeOutput, hctl]
  rw [turns_during_lockRel hc hfree hw hj (by rw [workerOp, hctl]) 0, hmoved, hout, State.during_free hfree]
  rfl

/-- The payload in the send buffer is sent, byte by byte, to the last (R161). -/
theorem turns_replySent {dh : Chan} (hctl : dh.ctl = .replySend h) (hj : dh.txJob = .none) (outs : List Output) :
    ∃ t1 eh, turns c 1 (s.during c dh (.held (.worker c)) outs) = .next t1 ∧
      pump c (5 + dh.txLen.toNat) t1 = .next (s.during c eh (.held (.worker c))
        (outs ++ ((dh.txFrame s.config s.config.msgidEnvelope).map (.emit c) ++ [.result (.worker c) .txOk]))) ∧
      eh.ctl = .replyRel h .txOk ∧ eh.txJob = .none ∧ eh.txPhase = .idle ∧
      eh.writeless = (dh.sendCalled s.config (.worker c) s.config.msgidEnvelope).writeless := by
  have hget := State.during_get hc (ch := dh) (l := .held (.worker c)) (outs := outs)
  have hheld := State.during_holds hfree (.worker c) (ch := dh) (outs := outs)
  have hidle := State.during_writePending hj hw (l := .held (.worker c)) (outs := outs)
  have hlen := dh.txFrame_length_eq s.config s.config.msgidEnvelope
  obtain ⟨t1, t2, eh, hcall, hpump, hprog, hleft⟩ := txSend_progress hget hheld hidle hlen.ge
  have hturn : turns c 1 (s.during c dh (.held (.worker c)) outs) = .next t1 :=
    turns_succ hget (by simp [workerOp, hctl]) hcall 0
  have hcalled := hcall.symm.trans (exec_sendCall hget hheld hidle s.config.msgidEnvelope)
  rw [State.during_setChan, State.during_resume hc] at hcalled
  cases hcalled
  obtain ⟨eh', outs', rfl, hawaits⟩ :=
    pump_awaits (h := h) hc _ (.inl ⟨by simp [Chan.sendCalled], by simp [Chan.resume, Chan.sendCalled, hctl]⟩) hpump
  obtain rfl : eh' = eh := Option.some_inj.mp ((State.during_get hc).symm.trans hprog.chan)
  have hnone : eh'.unsent s.config = [] := hleft.trans (List.drop_eq_nil_iff.mpr hlen.le)
  obtain ⟨-, hover⟩ := hprog.regs.phase
  obtain ⟨hended, hphase⟩ := hover hnone
  have hout := hprog.out
  rw [State.during_out, State.during_out, State.during_config, if_pos hnone, List.append_assoc,
    List.append_cancel_left_eq, List.take_of_length_le hlen.le] at hout
  rw [hout] at hpump
  refine ⟨_, eh', hturn, hpump, ?_, hended, hphase, hprog.regs.kept⟩
  rcases hawaits with ⟨hsend, -⟩ | ⟨-, hrel⟩
  · cases hsend.symm.trans hended
  · exact hrel

end Reply

/-- The frame of a channel with the payload `p` to send, wherever its worker is. -/
theorem Chan.loaded_txFrame {k : Config} (ch : Chan) (hwf : Memory.wf ch.txBuf = true) {p : List Byte}
    (hp : p.length ≤ lenMax) (ctl : WorkerCtl) (msgid : Byte) :
    Chan.txFrame k { ch.loaded p with ctl := ctl } msgid = frameBytes k ch.txSeq msgid p := by
  rw [Chan.txFrame_eq_frameBytes]
  exact congrArg (frameBytes k ch.txSeq msgid) (Chan.loaded_txPayload hwf hp)

/-- A reply that has ended, the handler running on, leaves everything but its channel and the outputs as it was. -/
theorem reply_frame {s : State} {c : ChanId} {ch : Chan} (hc : s.chans[c]? = some ch) (ch' : Chan) (out : List Output) :
    { s.setChan c ch' with out := out }.chans[c]? = some ch' ∧ OthersKept s { s.setChan c ch' with out := out } c ∧
      WorldKept s { s.setChan c ch' with out := out } ∧ SharedKept s { s.setChan c ch' with out := out } :=
  ⟨State.setChan_get_self hc ch', othersKept_setChan s c ch', ⟨rfl, rfl, rfl, rfl, rfl⟩, rfl, rfl, rfl, rfl⟩

/-- Settles O47: the lock is taken, the envelope encoded and sent, and the lock released (`turns_replyAcquired`,
`turns_replyEncoded`, `turns_replySent`, `turns_replyReleased`); a failed encode goes straight to the release. -/
theorem replyEmitsMessage : Obligations.ReplyEmitsMessage := by
  refine fun s c ch tag body hc => ⟨fun hno => exec_reply_ignored hc hno tag body, fun h hctl hfree hw hwf =>
    ⟨fun hv hl => ?sent, fun hbad => ?failed⟩⟩
  case sent =>
    have hj : ch.txJob = .none := State.txJob_of_writePending hc hw
    have hf := encodeFailure_none hv hl
    obtain ⟨t1, eh, hcall, hpump, hrel, hended, hphase, hkept⟩ := turns_replySent hc hfree h hw
      (dh := { ch.loaded (envelope tag body) with ctl := .replySend h }) rfl hj [.result (.worker c) .encOk]
    have hlen : (ch.loaded (envelope tag body)).txLen.toNat = (envelope tag body).length := ch.loaded_txLen hl
    have hturns := calc turns c 3 (s.setChan c { ch with ctl := .replyAcq h tag body })
      _ = turns c 2 (s.during c { ch with ctl := .replyEncode h tag body } (.held (.worker c)) []) :=
        turns_replyAcquired hc hfree h 2
      _ = turns c 1 (s.during c { ch.loaded (envelope tag body) with ctl := .replySend h } (.held (.worker c))
            [.result (.worker c) .encOk]) := turns_replyEncoded hc hfree h hw hf 1
      _ = .next t1 := hcall
    obtain ⟨hget, hothers, hworld, hshared⟩ := reply_frame hc { eh with ctl := .handler h } _
    refine ⟨_, _, _, _, _, exec_reply hc hctl tag body, hturns, hlen ▸ hpump,
      turns_replyReleased hc hfree h hw hrel hended _, hget, hothers, hworld, hshared,
      (receiverKept_of_writeless hkept :), (workerKept_of_writeless hkept :), (congrArg Chan.txSeq hkept :), hphase,
      hended, rfl, ?_⟩
    simp [ch.loaded_txFrame hwf hl]
  case failed =>
    obtain ⟨cause, hcause⟩ : ∃ cause, encodeFailure s.config tag body = some cause := by
      by_cases hv : variantOf s.config tag = none
      · exact ⟨_, encodeFailure_unknownTag hv _⟩
      · exact ⟨_, encodeFailure_tooLong hv (hbad.resolve_left hv)⟩
    have hj : ch.txJob = .none := State.txJob_of_writePending hc hw
    have hturns := calc turns c 3 (s.setChan c { ch with ctl := .replyAcq h tag body })
      _ = turns c 2 (s.during c { ch with ctl := .replyEncode h tag body } (.held (.worker c)) []) :=
        turns_replyAcquired hc hfree h 2
      _ = turns c 1 (s.during c { ch with ctl := .replyRel h (.encFail cause) } (.held (.worker c))
            [.signal .fail, .result (.worker c) (.encFail cause)]) := turns_replyEncodeFailed hc hfree h hw hcause 1
      _ = _ := turns_replyReleased hc hfree h hw (dh := { ch with ctl := .replyRel h (.encFail cause) }) rfl hj _
    obtain ⟨hget, hothers, hworld, hshared⟩ := reply_frame hc { ch with ctl := .handler h } _
    exact ⟨_, _, _, cause, exec_reply hc hctl tag body, hturns, hget, hothers, hworld, hshared,
      receiverKept_of_registers rfl, senderKept_of_placeless rfl, ⟨rfl, rfl, rfl, rfl⟩, rfl, rfl⟩

end Sys2Proof.Machine

/-! SUPPORT. The protocol handlers (spec/46_handler_contracts.md R245 to R250, R252): which requests have no act, what a
Status report holds, what the parameter requests broadcast, and the page loop of a memory dump. -/

namespace Sys2Proof.Machine

/-! ## The filters -/

@[simp] theorem exactFilter_eq_true (cfg : CfgRegs) (e : Nat) : exactFilter cfg e = true ↔ e = cfg.engineId := by
  simp [exactFilter]

@[simp] theorem selfOrBroadcast_eq_true (cfg : CfgRegs) (e : Nat) :
    selfOrBroadcast cfg e = true ↔ e = cfg.engineId ∨ e = 0 := by
  simp [selfOrBroadcast]

/-- R248: a command for another engine, or one with a response, is dropped. -/
theorem handleCommand_eq_done {cfg : CfgRegs} {e : Nat} {resp : Option Nat} (h : e ≠ cfg.engineId ∨ resp ≠ none)
    (op : Nat) : handleCommand cfg e op resp = .done := by
  refine if_neg fun hpass => ?_
  simp only [Bool.and_eq_true, exactFilter_eq_true, Option.isNone_iff_eq_none] at hpass
  exact h.elim (absurd hpass.1) (absurd hpass.2)

/-- R247: a time reference for another engine, or one with a diff, is dropped. -/
theorem handleTimeReference_eq_done {cfg : CfgRegs} {e : Nat} {diff : Option Diff}
    (h : (e ≠ cfg.engineId ∧ e ≠ 0) ∨ diff ≠ none) (ts : Nat) : handleTimeReference cfg e ts diff = .done := by
  refine if_neg fun hpass => ?_
  simp only [Bool.and_eq_true, selfOrBroadcast_eq_true, Option.isNone_iff_eq_none] at hpass
  rcases h with ⟨hother, hzero⟩ | hdiff
  · exact hpass.1.elim hother hzero
  · exact hdiff hpass.2

theorem handleParamSet_eq_done {cfg : CfgRegs} {e : Nat} (h : e ≠ cfg.engineId) (id value : Nat) :
    handleParamSet cfg e id value = .done :=
  if_neg (mt (exactFilter_eq_true cfg e).mp h)

theorem handleParamRequest_eq_done {cfg : CfgRegs} {e : Nat} (h : e ≠ cfg.engineId) (h0 : e ≠ 0) (both : BothPresent)
    (byId byIndex : Option Nat) : handleParamRequest cfg both e byId byIndex = .done :=
  if_neg fun hpass => ((selfOrBroadcast_eq_true cfg e).mp hpass).elim h h0

theorem handleMemoryDump_eq_done {cfg : CfgRegs} {e : Nat} (h : e ≠ cfg.engineId) (k : Config) (region : Region)
    (addr size sid : Nat) : handleMemoryDump k cfg e region addr size sid = .done :=
  if_neg (mt (exactFilter_eq_true cfg e).mp h)

/-! ## What the block calls -/

/-- R245: a dispatched body calls the handler of the request it reads as. -/
theorem dispatch_handler {h : HandlerParams} {v : Variant} {x : BodyVal} {r : Request}
    (hr : h.fields.request v x = some r) (c : ChanId) (k : Config) (cfg : CfgRegs) :
    (Output.dispatch c v x).handler h k cfg = some (c, handleRequest k cfg h.both r) :=
  congrArg (fun p => some (c, p)) (handleDispatch_request hr)

/-- A handler that does nothing comes back with its return alone (R245). -/
theorem handlerStims_of_done {o : Output} {h : HandlerParams} {k : Config} {cfg : CfgRegs} {c : ChanId}
    (ho : o.handler h k cfg = some (c, .done)) (w : Surroundings) : o.handlerStims h w k cfg = [.handlerDone c] := by
  rw [Output.handlerStims, ho]
  exact stims_of_no_acts rfl

/-- R245: the engine id of the typed body is the one its variant's filter reads. -/
theorem dispatch_handlerStims_filtered (h : HandlerParams) (w : Surroundings) (k : Config) (cfg : CfgRegs) (c : ChanId)
    (v : Variant) (x : BodyVal)
    (hv : v ∈ [.command, .paramSet, .memoryDumpRequest] ∧ h.fields.engineId v x ≠ cfg.engineId ∨
      v ∈ [.timeReference, .paramRequest] ∧ h.fields.engineId v x ≠ cfg.engineId ∧ h.fields.engineId v x ≠ 0) :
    (Output.dispatch c v x).handlerStims h w k cfg = [.handlerDone c] := by
  refine handlerStims_of_done ?_ w
  simp only [List.mem_cons, List.not_mem_nil, or_false] at hv
  rcases hv with ⟨rfl | rfl | rfl, hne⟩ | ⟨rfl | rfl, hne, h0⟩ <;>
    rw [dispatch_handler (r := _) rfl, handleRequest]
  · rw [handleCommand_eq_done (.inl hne)]
  · rw [handleParamSet_eq_done hne]
  · rw [handleMemoryDump_eq_done hne]
  · rw [handleTimeReference_eq_done (.inl ⟨hne, h0⟩)]
  · rw [handleParamRequest_eq_done hne h0]

/-! ## Status -/

/-- The flags of the first `count` subsystems, asked for from question `n` on. -/
def Surroundings.flags (w : Surroundings) (n count : Nat) : List Bool :=
  ((List.range count).zipIdx n).map fun p => w.answer p.2 (.flag p.1)

/-- The readings of the accessors `xs`, asked for from question `n` on. -/
def Surroundings.readings (w : Surroundings) (n : Nat) (xs : List Accessor) : List Reading :=
  (xs.zipIdx n).map fun p => w.answer p.2 (.sensor p.1)

@[simp] theorem Surroundings.flags_length (w : Surroundings) (n count : Nat) : (w.flags n count).length = count := by
  simp [flags]

@[simp] theorem Surroundings.readings_length (w : Surroundings) (n : Nat) (xs : List Accessor) :
    (w.readings n xs).length = xs.length := by
  simp [readings]

theorem Surroundings.flags_getElem? (w : Surroundings) (n : Nat) {count i : Nat} (h : i < count) :
    (w.flags n count)[i]? = some (w.answer (n + i) (.flag i)) := by
  have hi : (List.range count)[i]? = some i := by simp [h]
  rw [flags, List.getElem?_map, List.getElem?_zipIdx, hi]
  rfl

theorem Surroundings.readings_getElem? (w : Surroundings) (n : Nat) {xs : List Accessor} {j : Nat} {x : Accessor}
    (h : xs[j]? = some x) : (w.readings n xs)[j]? = some (w.answer (n + j) (.sensor x)) := by
  simp [readings, h]

/-- R246: the flags, the sensors, with the debug flag the raw-ADC values, and one reply with what they returned. -/
theorem handleStatus_acts (cfg : CfgRegs) (subsystems : Nat) (sensors : List Sensor) (adc : Nat) (w : Surroundings)
    (n : Nat) :
    (handleStatus cfg subsystems sensors adc).acts w n =
      (List.range subsystems).map (fun i => .call (.flag i)) ++
        (sensors.map (fun x => .call (.sensor (.sensor x))) ++
          ((if cfg.dbgAdcRaw then (List.range adc).map fun i => .call (.sensor (.rawAdc i)) else []) ++
            [.reply (.status (bitmask (w.flags n subsystems))
              (sensors.zip (w.readings (n + subsystems) (sensors.map .sensor)))
              (if cfg.dbgAdcRaw then
                some (w.readings (n + subsystems + sensors.length) ((List.range adc).map .rawAdc))
              else none))])) := by
  rw [handleStatus, askFlags_acts, askSensors_acts]
  cases cfg.dbgAdcRaw
  case false => simp [Handler.acts, Surroundings.flags, Surroundings.readings, Function.comp_def]
  case true => simp [askSensors_acts, Handler.acts, Surroundings.flags, Surroundings.readings, Function.comp_def]

/-! ## Parameters -/

/-- R249, R250: a parameter asked for by its identifier is broadcast if there is one. -/
theorem paramById_sent (w : Surroundings) (n id : Nat) :
    ((paramById id .done).acts w n).filterMap HandlerAct.sent =
      ((w.answer n (.getById id) : Option Param).toList.map fun p =>
        .paramValue p.id p.value p.index (w.answer (n + 1) .count)) := by
  rw [paramById_acts]
  generalize w.answer n (.getById id) = p
  cases p <;> rfl

/-- R249: a parameter asked for by its index is broadcast if there is one. -/
theorem paramByIndex_sent (w : Surroundings) (n i : Nat) :
    ((paramByIndex i .done).acts w n).filterMap HandlerAct.sent =
      ((w.answer n (.getByIndex i) : Option Param).toList.map fun p =>
        .paramValue p.id p.value i (w.answer (n + 1) .count)) := by
  rw [paramByIndex_acts]
  generalize w.answer n (.getByIndex i) = p
  cases p <;> rfl

/-- R249: a run over indices that all have a parameter broadcasts each, with its index and the count. -/
theorem paramsByIndex_sent {w : Surroundings} {total : Nat} {p : Nat → Param}
    (hcount : ∀ m, w.answer m .count = total) (is : List Nat)
    (hget : ∀ m, ∀ i ∈ is, w.answer m (.getByIndex i) = some (p i)) (n : Nat) :
    ((is.foldr paramByIndex .done).acts w n).filterMap HandlerAct.sent =
      is.map fun i => .paramValue (p i).id (p i).value i total := by
  induction is generalizing n with
  | nil => rfl
  | cons i is ih =>
    have htail := ih (fun m j hj => hget m j (List.mem_cons_of_mem i hj)) (n + 3)
    rw [List.foldr_cons, paramByIndex_acts, hget n i List.mem_cons_self, hcount]
    exact congrArg (_ :: ·) htail

/-- R250: a set that fails is the handler's only act; after any other the parameter is asked for again. -/
theorem handleParamSet_acts (cfg : CfgRegs) (id value : Nat) (w : Surroundings) (n : Nat) :
    (handleParamSet cfg cfg.engineId id value).acts w n =
      .call (.set id value) ::
        (if w.answer n (.set id value) = .error then [] else (paramById id .done).acts w (n + 1)) := by
  rw [handleParamSet, if_pos ((exactFilter_eq_true _ _).mpr rfl), Handler.acts]
  generalize w.answer n (.set id value) = outcome
  cases outcome <;> rfl

/-- R249: a request that passes the filter and names no parameter is a run over the indices below the count. -/
theorem handleParamRequest_dump_acts {cfg : CfgRegs} {e : Nat} (h : e = cfg.engineId ∨ e = 0) (both : BothPresent)
    (w : Surroundings) (n : Nat) :
    (handleParamRequest cfg both e none none).acts w n =
      .call .count :: ((List.range (w.answer n .count)).foldr paramByIndex .done).acts w (n + 1) := by
  rw [handleParamRequest, if_pos ((selfOrBroadcast_eq_true _ _).mpr h), Handler.acts]

theorem handleParamRequest_byId {cfg : CfgRegs} {e : Nat} (h : e = cfg.engineId ∨ e = 0) (both : BothPresent)
    (id : Nat) : handleParamRequest cfg both e (some id) none = paramById id .done :=
  if_pos ((selfOrBroadcast_eq_true _ _).mpr h)

theorem handleParamRequest_byIndex {cfg : CfgRegs} {e : Nat} (h : e = cfg.engineId ∨ e = 0) (both : BothPresent)
    (i : Nat) : handleParamRequest cfg both e none (some i) = paramByIndex i .done :=
  if_pos ((selfOrBroadcast_eq_true _ _).mpr h)

/-! ## Memory dumps -/

/-- R252: a known region is dumped page by page. -/
theorem handleMemoryDump_known {region : Region} (h : region ≠ .unknown) (k : Config) (cfg : CfgRegs)
    (addr size sid : Nat) :
    handleMemoryDump k cfg cfg.engineId region addr size sid = dumpPages k.pageSize sid region size addr size := by
  refine (if_pos ((exactFilter_eq_true _ _).mpr rfl)).trans ?_
  cases region with
  | ram => rfl
  | externalFlash => rfl
  | unknown => exact absurd rfl h

theorem handleMemoryDump_unknown (k : Config) (cfg : CfgRegs) (addr size sid : Nat) :
    handleMemoryDump k cfg cfg.engineId .unknown addr size sid = .reportError .done :=
  if_pos ((exactFilter_eq_true _ _).mpr rfl)

/-- With nothing left to dump, the loop ends. -/
theorem dumpPages_nothing (ps sid : Nat) (region : Region) (fuel addr : Nat) :
    dumpPages ps sid region fuel addr 0 = .done := by
  cases fuel <;> rfl

/-- The acts of page `j` in a dump of `size` bytes from `addr` whose first question is `n`, each page read in full: the
read and the reply (R252). -/
def Surroundings.pageActs (w : Surroundings) (ps sid : Nat) (region : Region) (n addr size j : Nat) : List HandlerAct :=
  [.call (.read region (addr + j * ps) (min ps (size - j * ps))),
   .reply (.memoryDumpPage sid (addr + j * ps)
     (w.answer (n + 2 * j) (.read region (addr + j * ps) (min ps (size - j * ps)))))]

theorem Surroundings.pageActs_zero (w : Surroundings) (ps sid : Nat) (region : Region) (n addr size : Nat) :
    w.pageActs ps sid region n addr size 0 =
      [.call (.read region addr (min ps size)),
       .reply (.memoryDumpPage sid addr (w.answer n (.read region addr (min ps size))))] := by
  rw [pageActs, Nat.zero_mul, Nat.mul_zero, Nat.add_zero, Nat.add_zero, Nat.sub_zero]

/-- What follows the first page is the dump of the rest. -/
theorem Surroundings.pageActs_succ (w : Surroundings) (ps sid : Nat) (region : Region) (n addr size j : Nat) :
    w.pageActs ps sid region n addr size (j + 1) = w.pageActs ps sid region (n + 2) (addr + ps) (size - ps) j := by
  have haddr : addr + (j + 1) * ps = addr + ps + j * ps := by rw [Nat.succ_mul]; omega
  have hsize : size - (j + 1) * ps = size - ps - j * ps := by rw [Nat.succ_mul]; omega
  have hn : n + 2 * (j + 1) = n + 2 + 2 * j := by omega
  rw [pageActs, pageActs, haddr, hsize, hn]

/-- A page read in full and replied to, and what the loop does after it (R252). -/
theorem dumpPages_acts_full {w : Surroundings} {ps : Nat} {region : Region} (hps : 0 < ps)
    (hread : ∀ m a len, (w.answer m (.read region a len)).length = len) (hresult : ∀ m, w.result m = .txOk)
    (sid fuel addr n : Nat) {remaining : Nat} (h : remaining ≠ 0) :
    (dumpPages ps sid region (fuel + 1) addr remaining).acts w n =
      w.pageActs ps sid region n addr remaining 0 ++
        (dumpPages ps sid region fuel (addr + min ps remaining) (remaining - min ps remaining)).acts w (n + 2) := by
  have hdata : List.take (min ps remaining) (w.answer n (.read region addr (min ps remaining))) =
      w.answer n (.read region addr (min ps remaining)) := List.take_of_length_le (hread ..).le
  have hsome : (w.answer n (.read region addr (min ps remaining))).isEmpty = false := by
    rw [List.isEmpty_eq_false_iff, ← List.length_pos_iff, hread]
    omega
  rw [dumpPages_acts w ps sid fuel addr remaining n region h, hdata, w.pageActs_zero]
  simp [hsome, hresult, hread]

/-- What is left takes one page more than what is left after a page. -/
theorem pageCount_succ {ps remaining : Nat} (hps : 0 < ps) (hpos : 0 < remaining) :
    (remaining + ps - 1) / ps = (remaining - ps + ps - 1) / ps + 1 := by
  rw [← Nat.add_div_right _ hps]
  rcases Nat.lt_or_ge remaining ps with hlast | hmore
  · rw [Nat.sub_eq_zero_of_le hlast.le, Nat.div_eq_of_lt_le (k := 1) (by omega) (by omega),
      Nat.div_eq_of_lt_le (k := 1) (by omega) (by omega)]
  · congr 1
    omega

/-- R252: with full reads the loop reads and replies with each page, in order. -/
theorem dumpPages_full {w : Surroundings} {ps : Nat} {region : Region} (hps : 0 < ps)
    (hread : ∀ m a len, (w.answer m (.read region a len)).length = len) (hresult : ∀ m, w.result m = .txOk)
    (sid : Nat) {fuel remaining : Nat} (hfuel : remaining ≤ fuel) (addr n : Nat) :
    (dumpPages ps sid region fuel addr remaining).acts w n =
      (List.range ((remaining + ps - 1) / ps)).flatMap (w.pageActs ps sid region n addr remaining) := by
  have hnone : (0 + ps - 1) / ps = 0 := Nat.div_eq_of_lt (by omega)
  induction fuel generalizing remaining addr n with
  | zero =>
    obtain rfl : remaining = 0 := by omega
    rw [hnone]
    rfl
  | succ fuel ih =>
    rcases Nat.eq_zero_or_pos remaining with rfl | hpos
    · rw [dumpPages_nothing, hnone]
      rfl
    have hnext : dumpPages ps sid region fuel (addr + min ps remaining) (remaining - min ps remaining) =
        dumpPages ps sid region fuel (addr + ps) (remaining - ps) := by
      rcases Nat.le_total ps remaining with hmore | hlast
      · rw [Nat.min_eq_left hmore]
      · rw [Nat.min_eq_right hlast, Nat.sub_self, Nat.sub_eq_zero_of_le hlast, dumpPages_nothing, dumpPages_nothing]
    rw [dumpPages_acts_full hps hread hresult sid fuel addr n hpos.ne', hnext, ih (by omega),
      pageCount_succ hps hpos, List.range_succ_eq_map, List.flatMap_cons, List.flatMap_map]
    simp only [Surroundings.pageActs_succ]

/-! ## Error reports -/

/-- Nothing is done after a reported error (R252). -/
def ErrorEnds (acts : List HandlerAct) : Prop :=
  ∀ before after, acts = before ++ .reportError :: after → after = []

theorem errorEnds_nil : ErrorEnds [] := by simp [ErrorEnds]

theorem errorEnds_reportError : ErrorEnds [.reportError] := by
  simp [ErrorEnds, List.cons_eq_append_iff]

/-- An act that is no error report may stand before. -/
theorem ErrorEnds.cons {acts : List HandlerAct} (h : ErrorEnds acts) {a : HandlerAct} (ha : a ≠ .reportError) :
    ErrorEnds (a :: acts) := by
  rintro (_ | ⟨_, before⟩) after heq
  · exact absurd (List.cons.inj heq).1 ha
  · exact h before after (List.cons.inj heq).2

/-- R252: the page loop ends with an error it reports. -/
theorem dumpPages_errorEnds (w : Surroundings) (ps sid : Nat) (region : Region) (fuel addr remaining n : Nat) :
    ErrorEnds ((dumpPages ps sid region fuel addr remaining).acts w n) := by
  induction fuel generalizing addr remaining n with
  | zero => exact errorEnds_nil
  | succ fuel ih =>
    rcases Nat.eq_zero_or_pos remaining with rfl | hpos
    · exact errorEnds_nil
    rw [dumpPages_acts w ps sid fuel addr remaining n region hpos.ne']
    refine ErrorEnds.cons ?_ HandlerAct.noConfusion
    dsimp only
    split
    case isTrue => exact errorEnds_reportError
    case isFalse =>
      refine ErrorEnds.cons ?_ HandlerAct.noConfusion
      split
      case isTrue => exact ih _ _ _
      case isFalse =>
        split
        · exact errorEnds_nil
        · exact ih _ _ _

theorem handleMemoryDump_errorEnds (k : Config) (cfg : CfgRegs) (region : Region) (addr size sid : Nat)
    (w : Surroundings) (n : Nat) :
    ErrorEnds ((handleMemoryDump k cfg cfg.engineId region addr size sid).acts w n) := by
  by_cases h : region = .unknown
  · rw [h, handleMemoryDump_unknown]
    exact errorEnds_reportError
  · rw [handleMemoryDump_known h]
    exact dumpPages_errorEnds w k.pageSize sid region size addr size n

/-- R252: a first read without a byte is reported, and the dump is over. -/
theorem dumpPages_emptyRead {w : Surroundings} {ps : Nat} {region : Region} {addr size n : Nat} (hpos : 0 < size)
    (hempty : w.answer n (.read region addr (min ps size)) = []) (sid : Nat) :
    (dumpPages ps sid region size addr size).acts w n =
      [.call (.read region addr (min ps size)), .reportError] := by
  obtain ⟨fuel, rfl⟩ := Nat.exists_eq_succ_of_ne_zero hpos.ne'
  rw [dumpPages_acts w ps sid fuel addr _ n region hpos.ne', hempty]
  simp

/-! ## The obligation -/

/-- Settles O60: one lemma of this part for each clause. -/
theorem handlerContracts : Obligations.HandlerContracts := by
  intro k cfg w n
  refine ⟨⟨?command, ?set, ?time, ?request, ?dump⟩, ?status, ?executed, ?stamped, ?stored, ?requested, ?allParams,
    ?pages, ?errors, ?unknown, ?dispatched⟩
  case command => intro e op resp h; rw [handleCommand_eq_done h]; rfl
  case set => intro e id value h; rw [handleParamSet_eq_done h]; rfl
  case time => intro e ts diff h; rw [handleTimeReference_eq_done h]; rfl
  case request => intro both e byId byIndex h h0; rw [handleParamRequest_eq_done h h0]; rfl
  case dump => intro e region addr size sid h; rw [handleMemoryDump_eq_done h]; rfl
  case status =>
    intro subsystems sensors adc
    refine ⟨_, _, _, ?_, ?_, ?_, ?_, ?_, ?_, handleStatus_acts cfg subsystems sensors adc w n⟩
    · cases cfg.dbgAdcRaw <;> rfl
    · simp
    · intro j x hx
      have hsensor : (sensors.map Accessor.sensor)[j]? = some (.sensor x) := by simp [hx]
      have hread := w.readings_getElem? (n + subsystems) hsensor
      simp [List.getElem?_zip_eq_some, hx, hread]
    · intro l hl
      obtain ⟨-, hsome⟩ := Option.ite_none_right_eq_some.mp hl
      obtain rfl := Option.some.inj hsome
      exact ⟨by simp, fun j hj => w.readings_getElem? _ (by simp [hj])⟩
    · intro i hi
      simp [bitmask_testBit, List.getD, w.flags_getElem? n hi]
    · simpa using bitmask_lt (w.flags n subsystems)
  case executed => intro op; rw [handleCommand, if_pos (by simp)]; rfl
  case stamped => intro e ts he; rw [handleTimeReference, if_pos (by simp [he])]; rfl
  case stored =>
    refine fun id value => ⟨fun p hset hget => ?_, fun hset => ?_⟩
    · rw [handleParamSet_acts, if_neg hset, paramById_acts, hget]
      rfl
    · rw [handleParamSet_acts, if_pos hset]
  case requested =>
    refine fun both e he => ⟨fun id => ?_, fun i => ?_⟩
    · rw [handleParamRequest_byId he, paramById_sent]
    · rw [handleParamRequest_byIndex he, paramByIndex_sent]
  case allParams =>
    intro both e total p he hcount hget
    rw [handleParamRequest_dump_acts he, hcount]
    exact paramsByIndex_sent hcount _ (fun m i hi => hget m i (List.mem_range.mp hi)) (n + 1)
  case pages =>
    intro region addr size sid hregion
    rw [handleMemoryDump_known hregion]
    exact ⟨fun hps hread hresult => dumpPages_full hps hread hresult sid le_rfl addr n,
      fun hpos hempty => dumpPages_emptyRead hpos hempty sid⟩
  case errors => exact fun region addr size sid => handleMemoryDump_errorEnds k cfg region addr size sid w n
  case unknown => intro addr size sid; rw [handleMemoryDump_unknown]; rfl
  case dispatched =>
    exact fun h c x => ⟨dispatch_handler (r := .timeReference ..) rfl c k cfg,
      dispatch_handler (r := .command ..) rfl c k cfg, dispatch_handler (r := .paramRequest ..) rfl c k cfg,
      dispatch_handler (r := .paramSet ..) rfl c k cfg, dispatch_handler (r := .memoryDump ..) rfl c k cfg, rfl,
      fun v hv => dispatch_handlerStims_filtered h w k cfg c v x hv⟩

end Sys2Proof.Machine

/-! SUPPORT. A `SES.START` with no empty slot (spec/60_exceptions.md R280). -/

namespace Sys2Proof.Machine

/-- A start that finds the last slot live fails, and its worker is in no composite operation any more. -/
theorem turns_startFailed {s : State} {c : ChanId} {ch : Chan} {i : SlotId} {d : ChanId} (hc : s.chans[c]? = some ch)
    (hctl : ch.ctl = .startClaim i) (hn : ch.sesSlot = none) (hi : s.reg[i]? = some (some d))
    (hlast : i + 1 = s.reg.length) :
    turns c 1 s =
      .next { s.setChan c { ch with ctl := .run } with out := s.out ++ [.result (.worker c) .startFail] } := by
  have hmoved : ch.resume (.result .startFail) = { ch with ctl := .run } := by simp [Chan.resume, hctl]
  exact turns_succ hc (by rw [workerOp, hctl]) (hmoved ▸ exec_regClaim_last hc hn hi hlast) 0

/-- Settles O43: the start up to its first claim (`turns_startOpened`), the live slots but the last (`turns_skip`), and the
failure at the last one (`turns_startFailed`). -/
theorem startFailsWhenFull : Obligations.StartFailsWhenFull := by
  intro s c ch hc hp hr hn hfree hw hne hfull
  obtain ⟨n, hlen⟩ := Nat.exists_eq_add_one.mpr (List.length_pos_iff.mpr hne)
  have hlive (j : Nat) (hj : j < s.reg.length) : ∃ d, s.reg[j]? = some (some d) := by
    obtain ⟨d, hd⟩ := Option.ne_none_iff_exists'.mp (hfull s.reg[j] (List.getElem_mem hj))
    exact ⟨d, by rw [List.getElem?_eq_getElem hj, hd]⟩
  have hget (i : SlotId) : (s.setChan c (ch.claiming i)).chans[c]? = some (ch.claiming i) := State.setChan_get_self hc _
  have hskip := turns_skip n (hget 0) rfl hn (fun j hj => (Nat.zero_add j).symm ▸ hlive j (by omega))
    (by simp [hlen]) 1
  rw [State.setChan_setChan, Nat.zero_add] at hskip
  obtain ⟨d, hd⟩ := hlive n (by omega)
  have hfailed := turns_startFailed (hget n) rfl hn hd hlen.symm
  rw [State.setChan_setChan] at hfailed
  have hturns := calc turns c (s.reg.length + 4) (s.setChan c { ch with ctl := .startAcq })
    _ = turns c (n + 1) (s.setChan c (ch.claiming 0)) := hlen ▸ turns_startOpened hc hfree hw _
    _ = turns c 1 (s.setChan c (ch.claiming n)) := Nat.add_comm 1 n ▸ hskip
    _ = _ := hfailed
  exact ⟨_, _, _, exec_startEvent hc hp hr, hturns, State.setChan_get_self hc _, hp, rfl, hn, rfl, rfl, rfl,
    by simp [State.signals]⟩

end Sys2Proof.Machine

/-! SUPPORT. Events that find no pending read or write, and callers that wait for their write: none has a step
(spec/60_exceptions.md R281, R287, spec/42_tx_transport.md R168). -/

namespace Sys2Proof.Machine

/-- A step whose stimulus selects no operation answers what the stimulus does. -/
theorem step_answers {s : State} {σ : Stim} {rest : List Stim} {a : Answer} (hs : s.script = σ :: rest)
    (hp : State.plan { s with script := rest } σ = .answer a) : step s = a :=
  (step_of_script hs).trans (congrArg Plan.carryOut hp)

section Inputs

variable {s : State} {c : ChanId} {ch : Chan} (hc : s.chans[c]? = some ch)
include hc

/-- Outside `RECEIVE` the device keeps its bytes, and those that arrive (R287). -/
theorem rxInput_outside (hp : ch.sesPhase ≠ .receive) (again : Stim) (arrive : List Byte) (offer reset timeout : Bool) :
    rxInput s c again arrive offer reset timeout =
      .answer (.next (s.setChan c { ch with rxs := ch.rxs ++ arrive })) := by
  simp [rxInput, Plan.onChan, hc, hp]

/-- The same with no byte arriving: nothing happens. -/
theorem rxInput_outside_nil (hp : ch.sesPhase ≠ .receive) (again : Stim) (offer reset timeout : Bool) :
    rxInput s c again [] offer reset timeout = .answer (.next s) := by
  rw [rxInput_outside hc hp, List.append_nil, State.setChan_self hc]

/-- Without a pending write an event of the sender has no step (R281). -/
theorem txInput_idle (hj : ch.txJob = .none) (send : SendInput) (raw : RawInput) :
    txInput s c send raw = .answer (.next s) := by
  simp [txInput, Plan.onChan, hc, hj]

theorem workerTurn_eq : workerTurn s c = Plan.ofOption s (workerOp s c ch) := by
  simp [workerTurn, Plan.onChan, hc]

/-- A `HandlerDone` that finds no running handler is ignored (log entry 34). -/
theorem handlerDoneInput_ignored (hctl : ∀ h, ch.ctl ≠ .handler h) : handlerDoneInput s c = .answer (.next s) := by
  simp only [handlerDoneInput, Plan.onChan, hc]
  split
  · exact absurd ‹_› (hctl _)
  · exact absurd ‹_› (hctl _)
  · rfl

/-- A `Broadcast` that finds no running handler is ignored (log entry 34). -/
theorem exec_bcastCall_ignored (hctl : ∀ h, ch.ctl ≠ .handler h) (tag : Nat) (body : List Byte) :
    exec (.bcastSend (.call (.handler c) tag body)) s = .next s := by
  refine (State.onChan_some hc _).trans ?_
  split
  · exact absurd ‹_› (hctl _)
  · rfl

end Inputs

/-- A broadcast that waits for its send has no step (R168). -/
theorem bcastTurn_waiting {s : State} {k : BcastId} {b : Bcast} {c : ChanId} (hb : s.findBcast k = some b)
    (hst : b.stage = .wait c) (i : SlotId) : bcastTurn s k i = .answer (.next s) := by
  simp [bcastTurn, hb, bcastOp, hst, Plan.ofOption]

/-- Settles O22: the events by what they plan (`rxInput_outside`, `txInput_idle`); where locks and agents agree, a caller
waits at `replyWait` or at `wait`, places from which no operation is selected. -/
theorem eventsWithoutPendingAccess : Obligations.EventsWithoutPendingAccess := by
  refine ⟨fun s c ch b rest hc hp => ⟨fun hs => ?byte, fun hs => ?timeout, fun hs => ?reset⟩,
    fun s c ch rest hc hj hs => ?sender,
    fun s c ch hinv hc => ⟨fun d hcaller => ?worker, fun k i hcaller => ?bcast⟩⟩
  case byte => exact step_answers hs (rxInput_outside (s := { s with script := rest }) hc hp _ _ _ _ _)
  case timeout => exact step_answers hs (rxInput_outside_nil (s := { s with script := rest }) hc hp _ _ _ _)
  case reset => exact step_answers hs (rxInput_outside_nil (s := { s with script := rest }) hc hp _ _ _ _)
  case sender =>
    have hidle := txInput_idle (s := { s with script := rest }) hc hj
    rcases hs with hs | hs | hs <;> exact step_answers hs (hidle _ _)
  case worker =>
    obtain ⟨rfl, h, hctl⟩ := hinv.jobWorker c ch d hc hcaller
    have hno (h' : HandlerKind) : ch.ctl ≠ .handler h' := by simp [hctl]
    refine ⟨?_, handlerDoneInput_ignored hc hno, fun tag body =>
      ⟨exec_reply_ignored hc hno tag body, exec_bcastCall_ignored hc hno tag body⟩⟩
    rw [workerTurn_eq hc, workerOp, hctl]
    rfl
  case bcast =>
    obtain ⟨b, hb, hk, hst⟩ := hinv.jobBcast c ch k hc hcaller
    exact bcastTurn_waiting ((State.findBcast_iff hinv.fresh.1).mpr ⟨hb, hk⟩) hst i

end Sys2Proof.Machine

/-! SUPPORT. The fault signals (spec/60_exceptions.md R271): what each update of the state signals, and each operation, case
by case of the closed table. -/

namespace Sys2Proof.Machine

/-! ## Updates -/

@[simp] theorem State.setChan_signals (s : State) (c : ChanId) (ch : Chan) : (s.setChan c ch).signals = s.signals := rfl
@[simp] theorem State.setLock_signals (s : State) (m : MediumId) (l : Lock) : (s.setLock m l).signals = s.signals := rfl
@[simp] theorem State.setReg_signals (s : State) (i : SlotId) (r : Option ChanId) :
    (s.setReg i r).signals = s.signals := rfl
@[simp] theorem State.updBcast_signals (s : State) (k : BcastId) (f : Bcast → Bcast) :
    (s.updBcast k f).signals = s.signals := rfl
@[simp] theorem State.beginBcast_signals (s : State) (caller : BcastCaller) (tag : Nat) (body : List Byte) :
    (s.beginBcast caller tag body).signals = s.signals := rfl

@[simp] theorem State.updChan_signals (s : State) (c : ChanId) (f : Chan → Chan) :
    (s.updChan c f).signals = s.signals := by
  rw [State.updChan_eq]
  rfl

@[simp] theorem State.signal_signals (s : State) (l : Level) : (s.signal l).signals = s.signals ++ [l] := by
  simp [State.signals]

@[simp] theorem State.emit_signals (s : State) (c : ChanId) (b : Byte) : (s.emit c b).signals = s.signals := by
  simp [State.signals]

theorem State.output_signals (s : State) {o : Output} (ho : ∀ l, o ≠ .signal l := by simp) :
    (s.output o).signals = s.signals := by
  cases o with
  | signal l => exact absurd rfl (ho l)
  | _ => simp [State.signals]

@[simp] theorem State.ret_signals (s : State) (a : Agent) (r : Result) : (s.ret a r).signals = s.signals := by
  rw [State.ret, State.resume_signals, State.output_signals]

@[simp] theorem State.bcastReturn_signals (s : State) (b : Bcast) (r : Result) :
    (s.bcastReturn b r).signals = s.signals := by
  obtain ⟨chans, e⟩ := s.bcastReturn_eq b r
  rw [e]
  exact State.output_signals s

@[simp] theorem statusCall_signals (c : ChanId) (ch : Chan) (s : State) : (statusCall c ch s).signals = s.signals :=
  State.output_signals (s.setChan c _)

@[simp] theorem clearSlot_signals (c : ChanId) (ch : Chan) (s : State) : (clearSlot c ch s).signals = s.signals := by
  unfold clearSlot
  split <;> rfl

/-- A raised failure gives its one signal, if it has one (R283b). -/
theorem State.raise_signals (s : State) (f : Failure) : (s.raise f).signals = s.signals ++ f.level.toList := by
  cases f <;> simp [State.raise, Failure.writePhase, Failure.level, State.signalOpt]

@[simp] theorem dropBadBody_signals (c : ChanId) (s : State) : (dropBadBody c s).signals = s.signals ++ [.fail] := by
  rw [dropBadBody, State.updChan_signals, State.raise_signals]
  rfl

/-! ## Operations -/

/-- What operation `i` can answer, as far as signals go (R271): a stop; a state without a new signal; one `FAIL` more, if
the operation is in the table; or one `NORMAL` more, for a good frame. -/
inductive Signals (s : State) (i : Instr) : Answer → Prop where
  | fault (f : Fault) : Signals s i (.fault f)
  | refused (r : Refusal) : Signals s i (.refused r)
  | silent {t : State} (h : t.signals = s.signals) : Signals s i (.next t)
  | fail {t : State} (hi : maySignal i = true) (h : t.signals = s.signals ++ [.fail]) : Signals s i (.next t)
  | normal {t : State} {c : ChanId} {b : Byte} (hi : i = .rxCrc c b) (h : t.signals = s.signals ++ [.normal]) :
      Signals s i (.next t)

section Operations

variable {s : State} {i : Instr}

theorem Signals.onChan {c : ChanId} {f : Chan → Answer} (h : ∀ ch, Signals s i (f ch)) :
    Signals s i (s.onChan c f) := by
  unfold State.onChan
  split
  · exact h _
  · exact .fault _

theorem Signals.onTransport {a : Agent} {c : ChanId} {f : Chan → Answer} (h : ∀ ch, Signals s i (f ch)) :
    Signals s i (s.onTransport a c f) := by
  refine .onChan fun ch => ?_
  split
  · split
    · exact .refused _
    · exact h ch
  · exact .refused _

/-- An operation of the table raises a failure. -/
theorem Signals.raise (hi : maySignal i = true) {f : Failure} (hf : f.level = some .fail := by rfl) :
    Signals s i (.next (s.raise f)) :=
  .fail hi (by rw [State.raise_signals, hf]; rfl)

/-- `START_FAIL` signals nothing (R280). -/
theorem signals_startFail (c : ChanId) : Signals s i (.next (s.raise (.startFail c))) :=
  .silent (by rw [State.raise_signals]; exact List.append_nil _)

theorem signals_setChan (c : ChanId) (ch : Chan) : Signals s i (.next (s.setChan c ch)) := .silent rfl

theorem signals_same : Signals s i (.next s) := .silent rfl

/-! ### Receiver -/

theorem signals_rxNoData (c : ChanId) : Signals s i (rxNoData c s) := .onChan fun ch => .silent (by simp)

theorem signals_rxMidframe (hi : maySignal i = true) (c : ChanId) : Signals s i (rxMidframe c s) :=
  .onChan fun _ => .raise hi

theorem signals_rxPayload (c : ChanId) (b : Byte) : Signals s i (execRxPayload c b s) := by
  refine .onChan fun ch => ?_
  split
  · exact signals_setChan c _
  · exact .fault _

theorem signals_rxCrc (c : ChanId) (b : Byte) : Signals s (.rxCrc c b) (execRxCrc c b s) := by
  refine .onChan fun ch => ?_
  split
  · exact .normal rfl (by simp)
  · exact .raise rfl

theorem signals_rxReceive (c : ChanId) : Signals s i (execRxReceive c s) := by
  refine .onChan fun ch => ?_
  split
  · exact .silent (by simp)
  · exact signals_setChan c _

/-! ### Sender -/

theorem signals_sendCall (c : ChanId) (a : Agent) (msgid : Byte) : Signals s i (sendCall c a msgid s) :=
  .onTransport fun _ => .silent (State.resume_signals ..)

theorem signals_sendReady (c : ChanId) : Signals s i (sendReady c s) := by
  refine .onChan fun ch => ?_
  split
  · split
    · exact .fault _
    · split
      · exact signals_same
      · dsimp only
        split
        · exact .silent (by simp)
        · exact .silent (by simp)
  · exact signals_same

theorem signals_sendAbort (hi : maySignal i = true) (c : ChanId) : Signals s i (sendAbort c s) := by
  refine .onChan fun ch => ?_
  split
  · exact .raise hi
  · exact signals_same

theorem signals_txSend (c : ChanId) (x : SendInput) : Signals s (.txSend c x) (execTxSend c x s) := by
  cases x with
  | call a msgid => exact signals_sendCall c a msgid
  | ready => exact signals_sendReady c
  | timeout => exact signals_sendAbort rfl c
  | chReset => exact signals_sendAbort rfl c

theorem signals_rawCall (c : ChanId) (a : Agent) (frame : List Byte) : Signals s i (rawCall c a frame s) := by
  refine .onTransport fun ch => ?_
  dsimp only
  split
  · exact .silent (by simp [State.resume_signals])
  · exact .silent (State.resume_signals ..)

theorem signals_rawReady (c : ChanId) : Signals s i (rawReady c s) := by
  refine .onChan fun ch => ?_
  split
  · dsimp only
    split
    · exact .silent (by simp)
    · exact .silent (by simp)
  · exact signals_same

theorem signals_rawAbort (hi : maySignal i = true) (c : ChanId) : Signals s i (rawAbort c s) := by
  refine .onChan fun ch => ?_
  split
  · exact .raise hi
  · exact signals_same

theorem signals_txRaw (c : ChanId) (x : RawInput) : Signals s (.txRaw c x) (execTxRaw c x s) := by
  cases x with
  | call a frame => exact signals_rawCall c a frame
  | ready => exact signals_rawReady c
  | timeout => exact signals_rawAbort rfl c
  | chReset => exact signals_rawAbort rfl c

/-! ### Locks -/

theorem signals_lockAcq (a : Agent) (m : MediumId) : Signals s i (execLockAcq a m s) := by
  unfold execLockAcq
  split
  · exact .fault _
  · exact .silent (State.resume_signals ..)
  · exact signals_same

theorem signals_lockRel (a : Agent) (m : MediumId) : Signals s i (execLockRel a m s) := by
  unfold execLockRel
  split
  · exact .fault _
  · split
    · split
      · exact .refused _
      · exact .silent (State.resume_signals ..)
    · exact .refused _

/-! ### Envelope codec -/

theorem signals_envEncode (hi : maySignal i = true) (a : Agent) (c : ChanId) (t : Nat) (body : List Byte) :
    Signals s i (execEnvEncode a c t body s) := by
  refine .onTransport fun ch => ?_
  split
  · exact .raise hi
  · dsimp only
    split
    · exact .raise hi
    · exact .silent (by simp)

theorem signals_envBody (hi : maySignal i = true) (v : Variant) (payload : List Byte) :
    Signals s i (execEnvBody v payload s) := by
  unfold execEnvBody
  split
  · exact .silent (by simp)
  · exact .raise hi

theorem signals_dropSilently (c : ChanId) : Signals s i (dropSilently c s) := .onChan fun _ => signals_setChan c _

theorem signals_routeToHandler (hi : maySignal i = true) (v : Variant) (c : ChanId) (w : BitVec 3) :
    Signals s i (routeToHandler v c w s) := by
  refine .onChan fun ch => ?_
  split
  · exact .silent (by simp [State.output_signals])
  · exact .fail hi (by simp)

theorem signals_decodeAndDiscard (hi : maySignal i = true) (v : Variant) (c : ChanId) (w : BitVec 3) :
    Signals s i (decodeAndDiscard v c w s) := by
  refine .onChan fun ch => ?_
  split
  · exact .silent (by simp)
  · exact .fail hi (by simp)

theorem signals_envMemoryDumpRequest (hi : maySignal i = true) (c : ChanId) (w : BitVec 3) :
    Signals s i (execEnvMemoryDumpRequest c w s) := by
  unfold execEnvMemoryDumpRequest
  split
  · exact signals_routeToHandler hi _ c w
  · exact signals_dropSilently c

/-! ### Registry and broadcast -/

theorem signals_regClaim (c : ChanId) (j : SlotId) : Signals s i (execRegClaim c j s) := by
  refine .onChan fun ch => ?_
  split
  · split
    · exact .silent (by simp)
    · split
      · exact .silent (State.resume_signals ..)
      · exact signals_startFail c
    · exact signals_startFail c
  · exact .refused _

theorem signals_bcastCall (caller : BcastCaller) (t : Nat) (body : List Byte) :
    Signals s i (bcastCall caller t body s) := by
  cases caller with
  | driver => exact .silent rfl
  | handler c =>
    refine .onChan fun ch => ?_
    split
    · exact .silent rfl
    · exact signals_same
  | stop c => exact .onChan fun ch => .silent rfl

theorem signals_bcastVisit (k : BcastId) (j : SlotId) : Signals s i (bcastVisit k j s) := by
  unfold bcastVisit
  split
  · exact signals_same
  · split
    · exact .silent rfl
    · exact signals_same

theorem signals_bcastCopy (k : BcastId) : Signals s i (bcastCopy k s) := by
  unfold bcastCopy
  split
  · exact signals_same
  · split
    · exact .onTransport fun ch => .silent rfl
    · exact signals_same

theorem signals_bcastFinish (k : BcastId) : Signals s i (bcastFinish k s) := by
  unfold bcastFinish
  split
  · exact signals_same
  · split
    · exact .silent (by simp)
    · exact signals_same

theorem signals_bcastSend (x : BcastInput) : Signals s i (execBcastSend x s) := by
  cases x with
  | call caller t body => exact signals_bcastCall caller t body
  | visit k j => exact signals_bcastVisit k j
  | copy k => exact signals_bcastCopy k
  | finish k => exact signals_bcastFinish k

/-! ### Worker -/

theorem signals_sesStart (c : ChanId) (x : StartInput) : Signals s i (execSesStart c x s) := by
  cases x with
  | event =>
    refine .onChan fun ch => ?_
    split
    · exact signals_setChan c _
    · exact signals_same
  | init => exact .onChan fun _ => signals_setChan c _
  | arm => exact .onChan fun _ => signals_setChan c _
  | enter => exact .onChan fun _ => signals_setChan c _

theorem signals_sesStatus (c : ChanId) (x : StatusInput) : Signals s i (execSesStatus c x s) := by
  refine .onChan fun ch => ?_
  cases x with
  | compare =>
    dsimp only
    split
    · exact .silent (by simp)
    · exact signals_setChan c _
  | due => exact .silent (by simp)
  | handlerDone => exact signals_setChan c _

theorem signals_sesReceive (c : ChanId) : Signals s i (execSesReceive c s) := by
  refine .onChan fun ch => ?_
  split
  · exact signals_setChan c _
  · exact signals_setChan c _
  · exact signals_same

theorem signals_sesDispatch (c : ChanId) (x : DispatchInput) : Signals s i (execSesDispatch c x s) := by
  refine .onChan fun ch => ?_
  cases x with
  | pass1 =>
    dsimp only
    split
    · exact signals_setChan c _
    · exact signals_setChan c _
  | handlerDone => exact signals_setChan c _

theorem signals_sesSend (c : ChanId) (t : Nat) (body : List Byte) : Signals s i (execSesSend c t body s) := by
  refine .onChan fun ch => ?_
  split
  · exact signals_setChan c _
  · exact signals_same

theorem signals_sesStop (c : ChanId) : Signals s i (execSesStop c s) := by
  refine .onChan fun ch => ?_
  split
  · exact .silent (by simp)
  · exact signals_bcastCall _ _ _
  · exact signals_same

end Operations

/-- Every operation, in every state, signals as `Signals` says. -/
theorem exec_signals (i : Instr) (s : State) : Signals s i (exec i s) := by
  cases i with
  | crc8Update r b => exact .silent (by simp)
  | crc8Block r buf => exact .silent (by simp)
  | rxStart c => exact .onChan fun _ => signals_setChan c _
  | rxDiscard c b => exact .onChan fun _ => signals_setChan c _
  | rxSeq c b => exact .onChan fun _ => signals_setChan c _
  | rxMsgid c b => exact .onChan fun _ => signals_setChan c _
  | rxLen c b => exact .onChan fun _ => signals_setChan c _
  | rxPayload c b => exact signals_rxPayload c b
  | rxCrc c b => exact signals_rxCrc c b
  | rxIdleTmo c => exact signals_rxNoData c
  | rxBulkTmo c => exact signals_rxMidframe rfl c
  | rxIdleRst c => exact signals_rxNoData c
  | rxBulkRst c => exact signals_rxMidframe rfl c
  | rxReceive c => exact signals_rxReceive c
  | txSend c x => exact signals_txSend c x
  | txRaw c x => exact signals_txRaw c x
  | lockAcq a m => exact signals_lockAcq a m
  | lockRel a m => exact signals_lockRel a m
  | envEncode a c t body => exact signals_envEncode rfl a c t body
  | envDiscriminate payload => exact .silent (by simp)
  | envBody v payload => exact signals_envBody rfl v payload
  | regClaim c j => exact signals_regClaim c j
  | regClear c => exact .onChan fun _ => .silent (by simp)
  | bcastSend x => exact signals_bcastSend x
  | sesStart c x => exact signals_sesStart c x
  | sesCheckTerm c => exact .onChan fun _ => signals_setChan c _
  | sesStatus c x => exact signals_sesStatus c x
  | sesReceive c => exact signals_sesReceive c
  | sesDispatch c x => exact signals_sesDispatch c x
  | sesSend c t body => exact signals_sesSend c t body
  | sesStop c => exact signals_sesStop c
  | frame c seq msgid payload crc => exact .onChan fun _ => signals_setChan c _
  | envStatus c w => exact signals_dropSilently c
  | envStatusText c w => exact signals_dropSilently c
  | envTimeReference c w => exact signals_routeToHandler rfl _ c w
  | envCommand c w => exact signals_routeToHandler rfl _ c w
  | envParamRequest c w => exact signals_routeToHandler rfl _ c w
  | envParamSet c w => exact signals_routeToHandler rfl _ c w
  | envParamValue c w => exact signals_dropSilently c
  | envLogRequest c w => exact signals_decodeAndDiscard rfl _ c w
  | envMemoryDumpRequest c w => exact signals_envMemoryDumpRequest rfl c w
  | envMemoryDumpPage c w => exact signals_dropSilently c

/-- Settles O53: each of the three answers of `Signals` that go on is a case of the claim. -/
theorem signalsClosed : Obligations.SignalsClosed := by
  intro i s t h
  have hs := exec_signals i s
  rw [h] at hs
  cases hs with
  | silent hsig => exact ⟨[], by simpa using hsig, by simp, fun _ => rfl, by simp⟩
  | fail hi hsig => exact ⟨[.fail], hsig, le_rfl, fun hn => by simp [hi] at hn, by simp⟩
  | normal hi hsig => exact ⟨[.normal], hsig, le_rfl, fun hn => by simp [hi, maySignal] at hn, fun _ => ⟨_, _, hi⟩⟩

end Sys2Proof.Machine

/-! SUPPORT. Operation words (log entry 2): each reader of `decode` gives back what its writer wrote and leaves the bytes
after it, and the first byte names the row; the round trip of a whole word reads its operands one after the other. -/

namespace Sys2Proof.Machine

/-- A read that has succeeded hands its value and the bytes left to the next. -/
@[simp] theorem ok_bind {α β : Type} (a : α) (f : α → Except DecodeError β) : (Except.ok a >>= f) = f a := rfl

/-! ## Numbers and bytes -/

@[simp] theorem rdByte_cons (b : Byte) (rest : List Byte) : rdByte (b :: rest) = .ok (b, rest) := rfl

@[simp] theorem rdTake_append (bs rest : List Byte) : rdTake bs.length (bs ++ rest) = .ok (bs, rest) := by
  simp [rdTake]

@[simp] theorem rdNat_varint {v : Nat} (h : natOk v = true) (rest : List Byte) :
    rdNat (varint v ++ rest) = .ok (v, rest) := by
  simp [rdNat, readVarint_varint (of_decide_eq_true h)]

@[simp] theorem rdBytes_wrBytes {bs : List Byte} (h : bytesOk bs = true) (rest : List Byte) :
    rdBytes (wrBytes bs ++ rest) = .ok (bs, rest) := by
  rw [rdBytes, wrBytes, List.append_assoc, rdNat_varint h]
  exact rdTake_append bs rest

/-- A payload is short enough for its length to be coded, as a varint or in the length byte of a frame. -/
theorem bytesOk_of_payloadOk {p : List Byte} (h : payloadOk p = true) : bytesOk p = true := by
  have hlen : p.length ≤ lenMax := of_decide_eq_true h
  exact decide_eq_true (by unfold lenMax at hlen; omega)

theorem toNat_length_of_payloadOk {p : List Byte} (h : payloadOk p = true) :
    (BitVec.ofNat 8 p.length).toNat = p.length := by
  have hlen : p.length ≤ lenMax := of_decide_eq_true h
  exact Nat.mod_eq_of_lt (Nat.lt_succ_of_le hlen)

theorem bytesOk_of_frameOk {f : List Byte} (h : frameOk f = true) : bytesOk f = true := by
  obtain ⟨-, hlen⟩ : 5 ≤ f.length ∧ f.length ≤ 260 := by simpa [frameOk] using h
  exact decide_eq_true (by omega)

@[simp] theorem rdFrame_wireFrame (start seq msgid crc : Byte) {p : List Byte} (h : payloadOk p = true)
    (rest : List Byte) :
    rdFrame start (wireFrame start seq msgid p crc ++ rest) = .ok ((seq, msgid, p, crc), rest) := by
  simp [rdFrame, wireFrame, toNat_length_of_payloadOk h]

/-! ## Operands -/

@[simp] theorem rdAgent_wrAgent {a : Agent} (h : a.ok = true) (rest : List Byte) :
    rdAgent (wrAgent a ++ rest) = .ok (a, rest) := by
  cases a with
  | driver => rfl
  | worker c => simp [rdAgent, wrAgent, rdNat_varint h]
  | bcast k => simp [rdAgent, wrAgent, rdNat_varint h]

@[simp] theorem rdCaller_wrCaller {a : BcastCaller} (h : a.ok = true) (rest : List Byte) :
    rdCaller (wrCaller a ++ rest) = .ok (a, rest) := by
  cases a with
  | driver => rfl
  | handler c => simp [rdCaller, wrCaller, rdNat_varint h]
  | stop c => simp [rdCaller, wrCaller, rdNat_varint h]

@[simp] theorem rdSend_wrSend {x : SendInput} (h : x.ok = true) (rest : List Byte) :
    rdSend (wrSend x ++ rest) = .ok (x, rest) := by
  cases x with
  | call a m => simp [rdSend, wrSend, rdAgent_wrAgent h]
  | ready => rfl
  | timeout => rfl
  | chReset => rfl

@[simp] theorem rdRaw_wrRaw {x : RawInput} (h : x.ok = true) (rest : List Byte) :
    rdRaw (wrRaw x ++ rest) = .ok (x, rest) := by
  cases x with
  | call a f =>
    obtain ⟨ha, hf⟩ : a.ok = true ∧ frameOk f = true := by simpa [RawInput.ok] using h
    simp [rdRaw, wrRaw, ha, bytesOk_of_frameOk hf]
  | ready => rfl
  | timeout => rfl
  | chReset => rfl

@[simp] theorem rdBcast_wrBcast {x : BcastInput} (h : x.ok = true) (rest : List Byte) :
    rdBcast (wrBcast x ++ rest) = .ok (x, rest) := by
  cases x with
  | call a t body =>
    obtain ⟨⟨ha, ht⟩, hbody⟩ : (a.ok = true ∧ natOk t = true) ∧ bytesOk body = true := by
      simpa [BcastInput.ok] using h
    simp [rdBcast, wrBcast, ha, ht, hbody]
  | visit k i =>
    obtain ⟨hk, hi⟩ : natOk k = true ∧ natOk i = true := by simpa [BcastInput.ok] using h
    simp [rdBcast, wrBcast, hk, hi]
  | copy k => simp [rdBcast, wrBcast, rdNat_varint h]
  | finish k => simp [rdBcast, wrBcast, rdNat_varint h]

@[simp] theorem rdStart_wrStart (x : StartInput) (rest : List Byte) : rdStart (wrStart x ++ rest) = .ok (x, rest) := by
  cases x <;> rfl

@[simp] theorem rdStatus_wrStatus (x : StatusInput) (rest : List Byte) :
    rdStatus (wrStatus x ++ rest) = .ok (x, rest) := by
  cases x <;> rfl

@[simp] theorem rdDispatch_wrDispatch (x : DispatchInput) (rest : List Byte) :
    rdDispatch (wrDispatch x ++ rest) = .ok (x, rest) := by
  cases x <;> rfl

@[simp] theorem rdVariant_index (v : Variant) (rest : List Byte) :
    rdVariant (BitVec.ofNat 8 v.index :: rest) = .ok (v, rest) := by
  cases v <;> rfl

/-! ## First bytes -/

theorem keyByte_toNat (v : Variant) (w : BitVec 3) : (keyByte v w).toNat = keyOf (v.index + 1) w := by
  have hv : v.index < 10 := by cases v <;> decide
  have hw := w.isLt
  exact Nat.mod_eq_of_lt (by unfold keyOf; omega)

/-- A key byte names the variant it was made for (R98). -/
theorem keyVariant_keyByte (v : Variant) (w : BitVec 3) : keyVariant (keyByte v w) = some v := by
  have hfield : (keyByte v w).toNat / 8 = v.index + 1 := by
    rw [keyByte_toNat]
    exact keyField_keyOf _ w
  rw [keyVariant, hfield]
  cases v <;> rfl

/-- The word of a dispatch-table row: the key's byte and the channel. -/
@[simp] theorem decodeRaw_keyByte (start : Byte) (v : Variant) {c : ChanId} (w : BitVec 3) (h : natOk c = true)
    (rest : List Byte) : decodeRaw start (keyByte v w :: (varint c ++ rest)) = .ok (Instr.ofVariant v c w, rest) := by
  simp [decodeRaw, keyVariant_keyByte, h, keyByte_toNat]

/-- The first byte of a row other than ENV is no key: `8 * TAG + 7` of the last variant is below all of them. -/
theorem keyVariant_opcodeByte (o : Opcode) : keyVariant (opcodeByte o) = none := by
  cases o <;> rfl

/-- Each row's first byte is its own. -/
theorem opcodeOf_opcodeByte (o : Opcode) : opcodeOf (opcodeByte o) = some o := by
  cases o <;> rfl

@[simp] theorem decodeRaw_opcodeByte (start : Byte) (o : Opcode) (bs : List Byte) :
    decodeRaw start (opcodeByte o :: bs) = rdOperands start o bs := by
  simp [decodeRaw, keyVariant_opcodeByte, opcodeOf_opcodeByte]

/-! ## Operation words -/

/-- A well-formed operation reads back from its word, before the check of the ranges. -/
theorem decodeRaw_encode {start : Byte} {i : Instr} (h : i.wellFormed start = true) (rest : List Byte) :
    decodeRaw start (encode start i ++ rest) = .ok (i, rest) := by
  cases i
  case envStatus | envStatusText | envTimeReference | envCommand | envParamRequest | envParamSet | envParamValue
      | envLogRequest | envMemoryDumpRequest | envMemoryDumpPage =>
    exact decodeRaw_keyByte start _ _ h rest
  case crc8Update => simp [encode, rdOperands]
  case envDiscriminate | envBody => simp [encode, rdOperands, bytesOk_of_payloadOk h]
  all_goals
    simp only [Instr.wellFormed, Bool.and_eq_true] at h
    simp [encode, rdOperands, h]

/-- Settles O3: each operand is read by the reader of its writer (`decodeRaw_encode`), and the check of the ranges that
comes after is the premise. -/
theorem decodeOfEncode : Obligations.DecodeOfEncode := by
  intro start i rest h
  simp [decode, decodeRaw_encode h, h]

end Sys2Proof.Machine
